-- ==== Sys2Proof/Word.lean ====
section
/-! DEFINITION. The word types of the block (00_scope.md R7, R9): a byte is 8 bits, the CRC and every identifier
are 16 bits, a host register access is 32 bits. -/

namespace Sys2Proof

/-- A byte: `u8` of 00_scope.md R9. -/
abbrev Byte := BitVec 8

/-- A CRC value or an identifier: `u16` of 00_scope.md R9. -/
abbrev Half := BitVec 16

/-- A host register access or a command word: `u32` of 00_scope.md R9. -/
abbrev Word := BitVec 32

/-- A byte offset in the 0x4000-byte register window (20_memory.md R50: "the low 14 bits of the address"). -/
abbrev Offset := BitVec 14

end Sys2Proof
end

