-- ==== Sys2Proof/Config.lean ====
section
/-! DEFINITION. What the spec leaves to the instance, and the free values: the parameters MAXLEN and BASE
(00_scope.md R5, R6) and the contents of the byte buffers after a reset (70_reset_and_hazards.md R201). None of
the constants declared `opaque` has a body, so nothing can be proved about its value. -/

namespace Sys2Proof

/-- The block's three byte buffers (10_state.md R39). -/
inductive BufferId where
  /-- TXBUF, outbound payload bytes. -/
  | tx
  /-- RXBUF, inbound frame bytes. -/
  | rx
  /-- MBOXBUF, delivered payload bytes. -/
  | mbox
deriving DecidableEq, Repr

/-- DESIGN CHOICE (entry 1, safe): how far MAXLEN lies above its least value 4. -/
opaque Config.maxlenAboveLeast : Fin 4093

/-- The implementation parameter MAXLEN of the instance that `State.reset` describes, "constrained by this spec to
4 <= MAXLEN <= 4096" (00_scope.md R5); OPEN within those bounds. -/
def Config.maxlen : Nat := Config.maxlenAboveLeast.val + 4

/-- The bounds 00_scope.md R5 sets for MAXLEN. -/
def Config.maxlenOk (n : Nat) : Bool := decide (4 ≤ n) && decide (n ≤ 4096)

/-- DESIGN CHOICE (entry 2, safe): which 0x4000-byte page of the bus the register window is. -/
opaque Config.basePage : Nat

/-- The bus address BASE of the register window, OPEN, "constrained to a multiple of 0x4000" (00_scope.md R6). -/
def Config.base : Nat := 0x4000 * Config.basePage

/-- The value byte `i` of a buffer holds after the `n`-th reset and before anything writes it: a FREE VALUE
(70_reset_and_hazards.md R201: "a model must let every byte of TXBUF, RXBUF and MBOXBUF take any value at reset").
DESIGN CHOICE (entry 3, safe): drawn anew, byte by byte, at each reset. -/
opaque Config.bufferDraw : Nat → BufferId → Nat → Byte

end Sys2Proof
end

