-- ==== Sys2Proof/Syntax.lean ====
section
/-! DEFINITION. The syntax of what the host gives the block: the sixteen commands of 30_encoding.md R74 (`Instr`),
the host's accesses to the register window (20_memory.md R51, R52), the other events at the block's inputs
(70_reset_and_hazards.md R200, R204), and the lines of the spec's assembler (30_encoding.md R78 to R82). -/

namespace Sys2Proof

/-- The commands of the opcode map (30_encoding.md R74), one constructor a row of the opcode table. An operand a
command does not read is no part of it (30_encoding.md R73). -/
inductive Instr where
  /-- NOP, 40_commands_common.md R86. -/
  | nop
  /-- CRC_INIT, 41_checksum.md R97. -/
  | crcInit
  /-- CRC_UPDATE, A = the input byte, 41_checksum.md R98. -/
  | crcUpdate (a : Byte)
  /-- TX_SEND, 42_frame_codec.md R109. -/
  | txSend
  /-- RX_DECODE, B = the frame length L, 42_frame_codec.md R115. -/
  | rxDecode (b : Half)
  /-- MBOX_ACK, 42_frame_codec.md R130. -/
  | mboxAck
  /-- INIT_BEGIN, 43_id_sequencer.md R138. -/
  | initBegin
  /-- INIT_FEED, B = a parsed identifier, 43_id_sequencer.md R139. -/
  | initFeed (b : Half)
  /-- INIT_END, 43_id_sequencer.md R143. -/
  | initEnd
  /-- SAVE_BEGIN, 43_id_sequencer.md R150. -/
  | saveBegin
  /-- SAVE_COMMIT, 43_id_sequencer.md R155. -/
  | saveCommit
  /-- SAVE_ABORT, A = the failure reason, 43_id_sequencer.md R153. -/
  | saveAbort (a : Byte)
  /-- DELETE_BEGIN, B = the identifier to delete, 43_id_sequencer.md R158. -/
  | deleteBegin (b : Half)
  /-- DELETE_REMOVED, A = the removal outcome, 43_id_sequencer.md R160. -/
  | deleteRemoved (a : Byte)
  /-- PROBE_RESULT, A = whether the probed identifier exists, 43_id_sequencer.md R165. -/
  | probeResult (a : Byte)
  /-- LATEST, 43_id_sequencer.md R170. -/
  | latest
deriving DecidableEq, Repr

/-- The sixteen registers of the window (10_state.md R15). -/
inductive Reg where
  | ctrl | rxCfg | cmd | status | crc | txHdr | txCrc | rxCrc
  | lastId | candidate | delId | probeId | scanMax | resultId | mboxInfo | param
deriving DecidableEq, Repr

/-- The width of a host access (20_memory.md R51, R52). -/
inductive AccessWidth where
  /-- 8 bits. -/
  | w8
  /-- 16 bits. -/
  | w16
  /-- 32 bits, the only width the block performs. -/
  | w32
  /-- 64 bits. -/
  | w64
  /-- A burst of any length. -/
  | burst
deriving DecidableEq, Repr

/-- Where a host access goes: to an offset of the register window, or to a bus address that BASE places inside or
outside the window (20_memory.md R50, R53). -/
inductive BusAddr where
  | window (offset : Offset)
  | absolute (addr : Nat)
deriving DecidableEq, Repr

/-- What a host access does. The data of a write that is not 32 bits wide is never looked at (20_memory.md R52). -/
inductive AccessOp where
  | read
  | write (data : Word)
deriving DecidableEq, Repr

/-- One host access (20_memory.md R51, R52). -/
structure HostAccess where
  addr  : BusAddr
  width : AccessWidth
  op    : AccessOp
deriving DecidableEq, Repr

/-- One event at the block's inputs (10_state.md R47). -/
inductive HostEvent where
  /-- The host accesses the block. -/
  | access (a : HostAccess)
  /-- Reset is asserted, during the access given if there is one, which is then not performed
  (60_exceptions.md R179, 70_reset_and_hazards.md R200). -/
  | reset (during : Option HostAccess)
  /-- Power is lost and comes back (70_reset_and_hazards.md R204, 60_exceptions.md R189). -/
  | powerCycle
deriving DecidableEq, Repr

/-- A `<target>` of an assembler line (30_encoding.md R78). -/
inductive Target where
  /-- A register name. -/
  | reg (r : Reg)
  /-- A buffer window name with a byte index. -/
  | buf (b : BufferId) (index : Nat)
  /-- A number: an offset of the window. -/
  | num (offset : Offset)
deriving DecidableEq, Repr

/-- One line of a host program (30_encoding.md R78 to R82). -/
inductive HostLine where
  /-- `WR <target>, <value32>`, R78. -/
  | wr (t : Target) (v : Word)
  /-- `RD <target>`, R78. -/
  | rd (t : Target)
  /-- A command mnemonic with its operand, R79. -/
  | command (i : Instr)
  /-- `WRBUF <window>, b0, b1, ...`, R80. -/
  | wrbuf (b : BufferId) (bytes : List Byte)
  /-- `CRC_BYTES b0, b1, ...`, R81. -/
  | crcBytes (bytes : List Byte)
  /-- `CTRL_SET sink, cons, irq, handle`, R82. -/
  | ctrlSet (sink cons irq : Bool) (handle : Byte)
  /-- `RXCFG_SET addr, resp`, R82. -/
  | rxcfgSet (addr resp : Byte)
  /-- `TXHDR_SET dest, opc, len`, R82. -/
  | txhdrSet (dest opc : Byte) (len : Half)
deriving DecidableEq, Repr

end Sys2Proof
end

