-- ==== Sys2Proof/WellFormed.lean ====
section
/-! DEFINITION. Which terms of the syntax the spec admits. -/

namespace Sys2Proof

/-- Every command with every operand its type admits is well-formed: operand widths are in the types, and "every
32-bit word is a valid command word for exactly one rule" (30_encoding.md R73). An operand the command refuses
(BAD_ARG, BAD_LENGTH, INVALID_IDENTIFIER) is still a legal encoding. -/
def Instr.wellFormed : Instr → Bool
  | .nop => true
  | .crcInit => true
  | .crcUpdate _ => true
  | .txSend => true
  | .rxDecode _ => true
  | .mboxAck => true
  | .initBegin => true
  | .initFeed _ => true
  | .initEnd => true
  | .saveBegin => true
  | .saveCommit => true
  | .saveAbort _ => true
  | .deleteBegin _ => true
  | .deleteRemoved _ => true
  | .probeResult _ => true
  | .latest => true

/-- The address names an aligned word of the register window (20_memory.md R51, R53). -/
def BusAddr.wellFormed : BusAddr → Bool
  | .window o => decide (o.toNat % 4 = 0)
  | .absolute a => decide (Config.base ≤ a) && decide (a < Config.base + 0x4000) && decide (a % 4 = 0)

/-- The access is one the block defines: "a 32-bit read or write at an offset that is a multiple of 4"
(20_memory.md R51). -/
def HostAccess.wellFormed (a : HostAccess) : Bool :=
  decide (a.width = .w32) && a.addr.wellFormed

/-- A target is "a buffer window name with a byte index that is a multiple of 4" inside the 4096-byte window
(20_memory.md R54), a register name, or a number (30_encoding.md R78). -/
def Target.wellFormed : Target → Bool
  | .reg _ => true
  | .buf _ i => decide (i % 4 = 0) && decide (i < 0x1000)
  | .num _ => true

/-- A host program line as 30_encoding.md R78 to R82 admit it: WRBUF writes TXBUF or RXBUF, inside the window. -/
def HostLine.wellFormed : HostLine → Bool
  | .wr t _ => t.wellFormed
  | .rd t => t.wellFormed
  | .command i => i.wellFormed
  | .wrbuf b bytes => decide (b ≠ .mbox) && decide (bytes.length ≤ 0x1000)
  | .crcBytes _ => true
  | .ctrlSet _ _ _ _ => true
  | .rxcfgSet _ _ => true
  | .txhdrSet _ _ _ => true

end Sys2Proof
end

