-- ==== Sys2Proof/Decode.lean ====
section
/-! DEFINITION. The command word (30_encoding.md R70 to R74): its fields, the decoder, and after it the encoder,
both written from the opcode map. -/

namespace Sys2Proof

/-- The opcode field, bits 7:0 (30_encoding.md R70). -/
def opField (w : Word) : Byte := w.extractLsb' 0 8

/-- The 8-bit operand A, bits 15:8 (30_encoding.md R70, R71). -/
def aField (w : Word) : Byte := w.extractLsb' 8 8

/-- The 16-bit operand B, bits 31:16 (30_encoding.md R70, R72). -/
def bField (w : Word) : Half := w.extractLsb' 16 16

/-- Why a word is no command of the opcode map. -/
inductive DecodeError where
  /-- OP is not in the table (30_encoding.md R76); the word runs the illegal-command rule
  (40_commands_common.md R87). -/
  | unassignedOpcode (op : Byte)
deriving DecidableEq, Repr

/-- `decode` of 30_encoding.md R70 over the opcode map R74. It "looks at OP alone" and is total. -/
def decode (w : Word) : Except DecodeError Instr :=
  match (opField w).toNat with
  | 0x00 => .ok .nop
  | 0x01 => .ok .crcInit
  | 0x02 => .ok (.crcUpdate (aField w))
  | 0x10 => .ok .txSend
  | 0x11 => .ok (.rxDecode (bField w))
  | 0x12 => .ok .mboxAck
  | 0x20 => .ok .initBegin
  | 0x21 => .ok (.initFeed (bField w))
  | 0x22 => .ok .initEnd
  | 0x23 => .ok .saveBegin
  | 0x24 => .ok .saveCommit
  | 0x25 => .ok (.saveAbort (aField w))
  | 0x26 => .ok (.deleteBegin (bField w))
  | 0x27 => .ok (.deleteRemoved (aField w))
  | 0x28 => .ok (.probeResult (aField w))
  | 0x29 => .ok .latest
  | _ => .error (.unassignedOpcode (opField w))

/-- The decoder on an instruction whose bits are `w`, of which the opcode table gives `nbits`; every bit above them
is 0. The block has one word a command (30_encoding.md R77), so the number is the word. -/
def decodeTableWord (nbits w : Nat) : Option Instr :=
  match decode (BitVec.ofNat 32 (w % 2 ^ nbits)) with
  | .ok i => some i
  | .error _ => none

/-- A value placed in a word with its least significant bit at bit `lo`: `zext_32(v) << lo` (00_scope.md R9). -/
def fieldAt {n : Nat} (v : BitVec n) (lo : Nat) : Word := v.setWidth 32 <<< lo

/-- A command word put together from its fields (30_encoding.md R70, R79). -/
def commandWord (op a : Byte) (b : Half) : Word := fieldAt b 16 ||| fieldAt a 8 ||| fieldAt op 0

/-- The word the assembler writes for a command, unused fields 0 (30_encoding.md R79). -/
def encode : Instr → Word
  | .nop => commandWord 0x00 0 0
  | .crcInit => commandWord 0x01 0 0
  | .crcUpdate a => commandWord 0x02 a 0
  | .txSend => commandWord 0x10 0 0
  | .rxDecode b => commandWord 0x11 0 b
  | .mboxAck => commandWord 0x12 0 0
  | .initBegin => commandWord 0x20 0 0
  | .initFeed b => commandWord 0x21 0 b
  | .initEnd => commandWord 0x22 0 0
  | .saveBegin => commandWord 0x23 0 0
  | .saveCommit => commandWord 0x24 0 0
  | .saveAbort a => commandWord 0x25 a 0
  | .deleteBegin b => commandWord 0x26 0 b
  | .deleteRemoved a => commandWord 0x27 a 0
  | .probeResult a => commandWord 0x28 a 0
  | .latest => commandWord 0x29 0 0

/-- Which bits of a command word a command reads: OP, with A or B where its row of 30_encoding.md R74 names them
(R71 to R73). -/
def readMask : Instr → Word
  | .nop => 0x000000FF
  | .crcInit => 0x000000FF
  | .crcUpdate _ => 0x0000FFFF
  | .txSend => 0x000000FF
  | .rxDecode _ => 0xFFFF00FF
  | .mboxAck => 0x000000FF
  | .initBegin => 0x000000FF
  | .initFeed _ => 0xFFFF00FF
  | .initEnd => 0x000000FF
  | .saveBegin => 0x000000FF
  | .saveCommit => 0x000000FF
  | .saveAbort _ => 0x0000FFFF
  | .deleteBegin _ => 0xFFFF00FF
  | .deleteRemoved _ => 0x0000FFFF
  | .probeResult _ => 0x0000FFFF
  | .latest => 0x000000FF

/-- The OP column of 30_encoding.md R74: the opcodes that select a command. -/
def assignedOpcodes : List Byte :=
  [0x00, 0x01, 0x02, 0x10, 0x11, 0x12, 0x20, 0x21, 0x22, 0x23, 0x24, 0x25, 0x26, 0x27, 0x28, 0x29]

end Sys2Proof
end

