-- ==== Sys2Proof/Machine/State.lean ====
section
/-! DEFINITION. The state of the block as plain data: the registers of 10_state.md section 3, the buffers and the
output stream of sections 4 and 5, and three fields of the model's own (`resetCount`, `inbox`, `response`). -/

namespace Sys2Proof.Machine

/-- STATUS.RESULT codes by name (10_state.md R20: "Every command writes exactly one of these; no other value is
ever read"). Their numbers are `ResultCode.code`. -/
inductive ResultCode where
  | ok | illegalCmd | badState | notInit | badArg | badLength
  | payloadTooLarge | noTransport
  | invalidIdentifier | notFound | idExhausted | encodeError | writeError | deleteFailed
deriving DecidableEq, Repr

/-- STATUS.SEQ states by name (10_state.md R21: "Values 5, 6 and 7 are never held"). Their numbers are
`SeqState.code`. -/
inductive SeqState where
  | idle | initScan | savePending | deleteRemove | deleteProbe
deriving DecidableEq, Repr

/-- STATUS.RX_RESULT codes by name (10_state.md R26: "Codes 0x8 to 0xE are never written"). Their numbers are
`RxResult.code`. -/
inductive RxResult where
  | delivered | empty | frameTooShort | notAResponse | notAddressedToMe | checksumMismatch
  | noConsumer | mailboxBusy | none
deriving DecidableEq, Repr

/-- What the block last answered on the bus: the model's own field (entry 6). -/
inductive BusResponse where
  /-- No access has been performed since the last reset. -/
  | none
  /-- A write was performed. -/
  | writeDone
  /-- A read was performed and returned this word. -/
  | readData (v : Word)
deriving DecidableEq, Repr

/-- Why a step stops. -/
inductive Fault where
  /-- The bus error of 20_memory.md R52, "the block's only fault" (60_exceptions.md R177), with the access's bus
  address. Raised by `performAccess` for an access that is not 32 bits wide, not aligned, or (DEDUCED from
  93_implementation_defined.md, entry 7) outside the window. Safe: the block goes on, the run of the model ends. -/
  | busError (addr : Nat)
deriving DecidableEq, Repr

/-- Why a command has no meaning. -/
inductive Refusal where
  /-- Raised by `exec` for a command not modelled yet; no command of this block is. Safe. -/
  | notModelled (mnemonic : String)
deriving DecidableEq, Repr

/-- The stored bytes of one buffer: index and byte, indices strictly rising (`Memory.wf`). An index not listed
holds what the last reset left there, a free value (entries 3 and 4). -/
abbrev Memory := List Host.Cell

/-- The whole state of the block (10_state.md R42: "The block has no hidden state beyond what this file lists"). -/
structure State where
  /-- CTRL.SINK_EN, R17. -/
  sinkEn : Bool
  /-- CTRL.CONS_EN, R17. -/
  consEn : Bool
  /-- CTRL.IRQ_EN, R17. -/
  irqEn : Bool
  /-- CTRL.CONS_HANDLE, R17. -/
  consHandle : Byte
  /-- RX_CFG.RX_ADDR, R18. -/
  rxAddr : Byte
  /-- RX_CFG.RESP_OPC, R18. -/
  respOpc : Byte
  /-- STATUS.RESULT, R16 and R20. -/
  result : ResultCode
  /-- STATUS.SEQ, R21. -/
  seq : SeqState
  /-- STATUS.INITED, R22. -/
  inited : Bool
  /-- STATUS.MBOX_FULL, R23. -/
  mboxFull : Bool
  /-- STATUS.MBOX_OVERRUN, R24. -/
  mboxOverrun : Bool
  /-- STATUS.RX_RESULT, R26. -/
  rxResult : RxResult
  /-- CRC, the CRC unit's running value, R27. -/
  crc : Half
  /-- TX_HDR.DEST, R28. -/
  txDest : Byte
  /-- TX_HDR.OPC, R28. -/
  txOpc : Byte
  /-- TX_HDR.LEN, R28. -/
  txLen : Half
  /-- TX_CRC, R29. -/
  txCrc : Half
  /-- RX_CRC.CALC, R30. -/
  rxCalc : Half
  /-- RX_CRC.RECV, R30. -/
  rxRecv : Half
  /-- LAST_ID, R31. -/
  lastId : Half
  /-- CANDIDATE, R32. -/
  candidate : Half
  /-- DEL_ID, R33. -/
  delId : Half
  /-- PROBE_ID, R34. -/
  probeId : Half
  /-- SCAN_MAX, R35. -/
  scanMax : Half
  /-- RESULT_ID, R37. -/
  resultId : Half
  /-- MBOX_INFO.LEN, R38. -/
  mboxLen : Half
  /-- MBOX_INFO.HANDLE, R38. -/
  mboxHandle : Byte
  /-- PARAM.MAXLEN, R36: the parameter MAXLEN of this instance; nothing writes it. -/
  maxlen : Nat
  /-- TXBUF, R39. -/
  txbuf : Memory
  /-- RXBUF, R39. -/
  rxbuf : Memory
  /-- MBOXBUF, R39. -/
  mboxbuf : Memory
  /-- TX_OUT, the bytes emitted so far, first one first, R40. -/
  txOut : List Byte
  /-- The model's own (entry 3): how many resets there have been; selects the draw of unwritten buffer bytes. -/
  resetCount : Nat
  /-- The model's own (entry 5): the events the outside has yet to present, next one first. -/
  inbox : List HostEvent
  /-- The model's own (entry 6): the block's last answer on the bus. -/
  response : BusResponse
deriving DecidableEq, Repr

/-- The block right after power-up: the table of 70_reset_and_hazards.md R200, with TX_OUT empty (R204). No buffer
byte has been written, MAXLEN is the instance's. -/
def State.reset : State where
  sinkEn := false
  consEn := false
  irqEn := false
  consHandle := 0x00
  rxAddr := 0x00
  respOpc := 0x00
  result := .ok
  seq := .idle
  inited := false
  mboxFull := false
  mboxOverrun := false
  rxResult := .none
  crc := 0xFFFF
  txDest := 0x00
  txOpc := 0x00
  txLen := 0x0000
  txCrc := 0x0000
  rxCalc := 0x0000
  rxRecv := 0x0000
  lastId := 0x0000
  candidate := 0x0000
  delId := 0x0000
  probeId := 0x0000
  scanMax := 0x0000
  resultId := 0x0000
  mboxLen := 0x0000
  mboxHandle := 0x00
  maxlen := Config.maxlen
  txbuf := []
  rxbuf := []
  mboxbuf := []
  txOut := []
  resetCount := 0
  inbox := []
  response := .none

end Sys2Proof.Machine
end

