-- ==== Sys2Proof/Machine/Ops.lean ====
section
/-! DEFINITION. The named operations over the state: the bytes of the buffers, the CRC function, the one template
every command runs by, the reset, and the bus error. The block has no exception entry and no return from one
(60_exceptions.md R176, R180); `illegalCommand` and `raiseBusError` are all it has in their place. -/

namespace Sys2Proof.Machine

/-! ### Stored bytes -/

/-- The byte stored at an index, if something was written there since the last reset. -/
def Memory.lookup : Memory → Nat → Option Byte
  | [], _ => none
  | (j, x) :: m, i => if i = j then some x else if i < j then none else Memory.lookup m i

/-- Store a byte at an index, keeping the indices strictly rising. -/
def Memory.store : Memory → Nat → Byte → Memory
  | [], i, v => [(i, v)]
  | (j, x) :: m, i, v =>
    if i = j then (i, v) :: m else if i < j then (i, v) :: (j, x) :: m else (j, x) :: Memory.store m i v

/-- Every listed index is above `lo`, below `cap`, and the indices rise strictly. -/
def Memory.risingFrom (cap : Nat) : Nat → Memory → Bool
  | _, [] => true
  | lo, (i, _) :: m => decide (lo ≤ i) && decide (i < cap) && Memory.risingFrom cap (i + 1) m

/-- The canonical form of a buffer of `cap` bytes: indices strictly rising and all below the capacity. -/
def Memory.wf (cap : Nat) (m : Memory) : Bool := Memory.risingFrom cap 0 m

/-! ### The three buffers -/

/-- A buffer's capacity in bytes (10_state.md R39). -/
def State.capacity (s : State) : BufferId → Nat
  | .tx => s.maxlen - 4
  | .rx => s.maxlen
  | .mbox => s.maxlen - 4

/-- A buffer's stored bytes. -/
def State.stored (s : State) : BufferId → Memory
  | .tx => s.txbuf
  | .rx => s.rxbuf
  | .mbox => s.mboxbuf

/-- Replace a buffer's stored bytes. -/
def State.setStored (s : State) (b : BufferId) (m : Memory) : State :=
  match b with
  | .tx => { s with txbuf := m }
  | .rx => { s with rxbuf := m }
  | .mbox => { s with mboxbuf := m }

/-- What byte `i` of a buffer holds while nothing has been written there since the last reset: a draw
(70_reset_and_hazards.md R201). -/
def State.unwritten (s : State) (b : BufferId) (i : Nat) : Byte := Config.bufferDraw s.resetCount b i

/-- Byte `i` of a buffer: "A byte index at or above the buffer's capacity does not exist: a write ignores the bits
for it and a read returns 0 in them" (20_memory.md R55). -/
def bufByte (b : BufferId) (i : Nat) (s : State) : Byte :=
  if i < s.capacity b then ((s.stored b).lookup i).getD (s.unwritten b i) else 0

/-- Bytes `0 .. n-1` of a buffer, in order. -/
def bufBytes (b : BufferId) (n : Nat) (s : State) : List Byte := (List.range n).map fun i => bufByte b i s

/-- Write byte `i` of a buffer, if it exists (20_memory.md R55). -/
def writeByte (b : BufferId) (i : Nat) (v : Byte) (s : State) : State :=
  if i < s.capacity b then s.setStored b ((s.stored b).store i v) else s

/-- Write consecutive bytes of a buffer from index `i` upward. -/
def writeBytes (b : BufferId) : Nat → List Byte → State → State
  | _, [], s => s
  | i, v :: vs, s => writeBytes b (i + 1) vs (writeByte b i v s)

/-! ### The CRC function -/

/-- The feedback constant of the source (41_checksum.md R95). -/
def crcFeedback : Half := 0xA001

/-- The initial value of the source (41_checksum.md R96, 90_conflicts.md C2). -/
def crcInitial : Half := 0xFFFF

/-- One shift step of 41_checksum.md R95: shift right one bit; if the bit shifted out was 1, exclusive or with the
feedback constant. -/
def crc16Shift (v : Half) : Half := if v.getLsbD 0 then (v >>> 1) ^^^ crcFeedback else v >>> 1

/-- `n` shift steps. -/
def crc16Shifts : Nat → Half → Half
  | 0, v => v
  | n + 1, v => crc16Shifts n (crc16Shift v)

/-- `crc16_update(v, b)` of 41_checksum.md R95. -/
def crc16Update (v : Half) (b : Byte) : Half := crc16Shifts 8 (v ^^^ b.setWidth 16)

/-- `crc16(init, s)` of 41_checksum.md R96. -/
def crc16 (init : Half) (bytes : List Byte) : Half := bytes.foldl crc16Update init

/-- The low byte of a 16-bit value, `c[7:0]`. -/
def lowByte (c : Half) : Byte := c.extractLsb' 0 8

/-- The high byte of a 16-bit value, `c[15:8]`. -/
def highByte (c : Half) : Byte := c.extractLsb' 8 8

/-! ### How a command executes -/

/-- `result(code)`: write STATUS.RESULT (10_state.md R16). -/
def State.setResult (s : State) (c : ResultCode) : State := { s with result := c }

/-- The code of the first check that fails, if any does; a check is whether it FAILS, with its code. -/
def firstFailure : List (Bool × ResultCode) → Option ResultCode
  | [] => none
  | (fails, c) :: rest => if fails then some c else firstFailure rest

/-- The template of 40_commands_common.md R85: "if a check fails: result(code of the first failing check) ; nothing
else changes", else the rule's writes all together and its success code. IRQ is computed (`irqOut`), so following
it needs no write. -/
def runCommand (checks : List (Bool × ResultCode)) (writes : State → State) (success : ResultCode) (s : State) :
    Host.Outcome State Fault Refusal :=
  match firstFailure checks with
  | some c => .next (s.setResult c)
  | none => .next ((writes s).setResult success)

/-- The illegal-command rule (40_commands_common.md R87): RESULT = ILLEGAL_CMD and nothing else. -/
def illegalCommand (s : State) : Host.Outcome State Fault Refusal := .next (s.setResult .illegalCmd)

/-! ### Reset and power -/

/-- The reset of 70_reset_and_hazards.md R200: every register at its reset value, the buffers drawn anew (R201),
MAXLEN and TX_OUT unchanged, any pending sequence abandoned. What the outside does next is not the block's. -/
def resetBlock (s : State) : State :=
  { State.reset with
    maxlen := s.maxlen, txOut := s.txOut, resetCount := s.resetCount + 1, inbox := s.inbox }

/-- A power cycle (70_reset_and_hazards.md R204): a reset, with TX_OUT empty. -/
def powerUp (s : State) : State := { resetBlock s with txOut := [] }

/-! ### The bus -/

/-- `raise BusError(addr)` (20_memory.md R52): the access is not performed and no state changes. -/
def raiseBusError (addr : Nat) : Host.Outcome State Fault Refusal := .fault (.busError addr)

/-- The bus address of an access: BASE + offset for an offset of the window (20_memory.md R50). -/
def busAddress : BusAddr → Nat
  | .window o => Config.base + o.toNat
  | .absolute a => a

/-- The window offset an access reaches: "The block decodes the low 14 bits of the address as the window offset"
(20_memory.md R50); an address outside the window "does not reach the block" (R53). -/
def windowOffset : BusAddr → Option Offset
  | .window o => some o
  | .absolute a =>
    if Config.base ≤ a ∧ a < Config.base + 0x4000 then some (BitVec.ofNat 14 a) else none

end Sys2Proof.Machine
end

