-- ==== Sys2Proof/Machine/Operands.lean ====
section
/-! DEFINITION. The operands of commands and accesses: the arguments A and B a command checks, the frame a codec
command works on, the offsets of the registers, and the packing of buffer bytes in host words. -/

namespace Sys2Proof.Machine

/-! ### Arguments of commands -/

/-- Whether A is out of range where "a command admits only 0 or 1" (30_encoding.md R71). -/
def notBoolean (a : Byte) : Bool := decide (1 < a.toNat)

/-- Whether an identifier is below 1: "Rejects id < 1 outright" (43_id_sequencer.md R158). -/
def notIdentifier (b : Half) : Bool := decide (b.toNat < 1)

/-- Whether RX_DECODE's length is above MAXLEN (42_frame_codec.md R116). -/
def lengthTooLong (b : Half) (s : State) : Bool := decide (s.maxlen < b.toNat)

/-- Whether TX_HDR.LEN + 4 is above MAXLEN, "computed without wrap" (42_frame_codec.md R110). -/
def payloadTooLong (s : State) : Bool := decide (s.maxlen < s.txLen.toNat + 4)

/-! ### Frames (42_frame_codec.md R105) -/

/-- The bytes a checksum covers, then the checksum, low byte first. -/
def withChecksum (body : List Byte) : List Byte :=
  body ++ [lowByte (crc16 crcInitial body), highByte (crc16 crcInitial body)]

/-- The header and payload TX_SEND builds: `[DEST, OPC] || TXBUF[0 .. n-1]` (42_frame_codec.md R109, R111). -/
def txBody (s : State) : List Byte := s.txDest :: s.txOpc :: bufBytes .tx s.txLen.toNat s

/-- A frame's address, byte 0. -/
def frameAddress (f : List Byte) : Byte := f.getD 0 0

/-- A frame's opcode, byte 1. -/
def frameOpcode (f : List Byte) : Byte := f.getD 1 0

/-- The bytes a frame's checksum covers, `f[0 .. L-3]`. -/
def frameBody (f : List Byte) : List Byte := f.take (f.length - 2)

/-- A frame's payload, `f[2 .. L-3]`. -/
def framePayload (f : List Byte) : List Byte := (frameBody f).drop 2

/-- The checksum computed over a frame, `calc` of 42_frame_codec.md R115. -/
def frameCalc (f : List Byte) : Half := crc16 crcInitial (frameBody f)

/-- The checksum a frame carries, `f[L-2] | f[L-1] << 8` (42_frame_codec.md R115). -/
def frameRecv (f : List Byte) : Half :=
  (f.getD (f.length - 2) 0).setWidth 16 ||| ((f.getD (f.length - 1) 0).setWidth 16 <<< 8)

/-! ### Registers and buffer windows -/

/-- The offset of a register in the window (10_state.md R15). -/
def registerOffset : Reg → Offset
  | .ctrl => 0x000
  | .rxCfg => 0x004
  | .cmd => 0x008
  | .status => 0x00C
  | .crc => 0x010
  | .txHdr => 0x014
  | .txCrc => 0x018
  | .rxCrc => 0x01C
  | .lastId => 0x020
  | .candidate => 0x024
  | .delId => 0x028
  | .probeId => 0x02C
  | .scanMax => 0x030
  | .resultId => 0x034
  | .mboxInfo => 0x038
  | .param => 0x03C

/-- The register at an aligned offset of the register region, none where the offset is reserved (10_state.md R15). -/
def registerAt (offset : Nat) : Option Reg :=
  match offset with
  | 0x000 => some .ctrl
  | 0x004 => some .rxCfg
  | 0x008 => some .cmd
  | 0x00C => some .status
  | 0x010 => some .crc
  | 0x014 => some .txHdr
  | 0x018 => some .txCrc
  | 0x01C => some .rxCrc
  | 0x020 => some .lastId
  | 0x024 => some .candidate
  | 0x028 => some .delId
  | 0x02C => some .probeId
  | 0x030 => some .scanMax
  | 0x034 => some .resultId
  | 0x038 => some .mboxInfo
  | 0x03C => some .param
  | _ => none

/-- The offset at which a buffer's window begins (20_memory.md R54). -/
def bufferBase : BufferId → Nat
  | .tx => 0x1000
  | .rx => 0x2000
  | .mbox => 0x3000

/-- What an offset of the window names (20_memory.md R54): a register, a reserved offset, or byte index `4k` of a
buffer. -/
inductive Place where
  | register (r : Reg)
  | reserved
  | buffer (b : BufferId) (index : Nat)
deriving DecidableEq, Repr

/-- The region map of 20_memory.md R54. -/
def placeAt (o : Offset) : Place :=
  match o.toNat / 0x1000 with
  | 0 =>
    match registerAt o.toNat with
    | some r => .register r
    | none => .reserved
  | 1 => .buffer .tx (o.toNat % 0x1000)
  | 2 => .buffer .rx (o.toNat % 0x1000)
  | _ => .buffer .mbox (o.toNat % 0x1000)

/-- Four bytes as a word, the first in bits 7:0 (20_memory.md R55). -/
def packWord (b0 b1 b2 b3 : Byte) : Word := fieldAt b0 0 ||| fieldAt b1 8 ||| fieldAt b2 16 ||| fieldAt b3 24

/-- The four bytes of a word, bits 7:0 first (20_memory.md R55). -/
def unpackWord (w : Word) : List Byte :=
  [w.extractLsb' 0 8, w.extractLsb' 8 8, w.extractLsb' 16 8, w.extractLsb' 24 8]

/-- `MemRead(W + 4k, 4)` of 20_memory.md R55, at byte index `i = 4k`. -/
def readBufferWord (b : BufferId) (i : Nat) (s : State) : Word :=
  packWord (bufByte b i s) (bufByte b (i + 1) s) (bufByte b (i + 2) s) (bufByte b (i + 3) s)

/-- `MemWrite(W + 4k, 4, w)` of 20_memory.md R55, at byte index `i = 4k`. -/
def writeBufferWord (b : BufferId) (i : Nat) (w : Word) (s : State) : State := writeBytes b i (unpackWord w) s

end Sys2Proof.Machine
end

