-- ==== Sys2Proof/Machine/Flags.lean ====
section
/-! DEFINITION. The numbers of the STATUS codes, the interrupt output, and every register as the word a host reads
and writes (10_state.md sections 3 and 6). -/

namespace Sys2Proof.Machine

/-- The code of a result (10_state.md R20). -/
def ResultCode.code : ResultCode → Byte
  | .ok => 0x00
  | .illegalCmd => 0x01
  | .badState => 0x02
  | .notInit => 0x03
  | .badArg => 0x04
  | .badLength => 0x05
  | .payloadTooLarge => 0x10
  | .noTransport => 0x11
  | .invalidIdentifier => 0x20
  | .notFound => 0x21
  | .idExhausted => 0x22
  | .encodeError => 0x23
  | .writeError => 0x24
  | .deleteFailed => 0x25

/-- The encoding of STATUS.SEQ (10_state.md R21). -/
def SeqState.code : SeqState → BitVec 3
  | .idle => 0
  | .initScan => 1
  | .savePending => 2
  | .deleteRemove => 3
  | .deleteProbe => 4

/-- The code of a decode outcome (10_state.md R26). -/
def RxResult.code : RxResult → BitVec 4
  | .delivered => 0x0
  | .empty => 0x1
  | .frameTooShort => 0x2
  | .notAResponse => 0x3
  | .notAddressedToMe => 0x4
  | .checksumMismatch => 0x5
  | .noConsumer => 0x6
  | .mailboxBusy => 0x7
  | .none => 0xF

/-- The interrupt output, a level: `IRQ = CTRL.IRQ_EN & STATUS.MBOX_FULL` (10_state.md R41). -/
def irqOut (s : State) : Bool := s.irqEn && s.mboxFull

/-- A 16-bit value in bits 15:0 of a register word, bits 31:16 reading 0 (20_memory.md R57). -/
def lowHalfWord (v : Half) : Word := fieldAt v 0

/-- STATUS as read (10_state.md R16). -/
def statusWord (s : State) : Word :=
  fieldAt s.result.code 0 ||| fieldAt s.seq.code 8 ||| fieldAt (BitVec.ofBool s.inited) 11 |||
  fieldAt (BitVec.ofBool s.mboxFull) 12 ||| fieldAt (BitVec.ofBool s.mboxOverrun) 13 |||
  fieldAt (BitVec.ofBool (irqOut s)) 14 ||| fieldAt s.rxResult.code 16

/-- The fields of CTRL in their places (10_state.md R17, 30_encoding.md R82). -/
def ctrlFields (sink cons irq : Bool) (handle : Byte) : Word :=
  fieldAt (BitVec.ofBool sink) 0 ||| fieldAt (BitVec.ofBool cons) 1 ||| fieldAt (BitVec.ofBool irq) 2 |||
  fieldAt handle 8

/-- The fields of RX_CFG in their places (10_state.md R18, 30_encoding.md R82). -/
def rxCfgFields (addr resp : Byte) : Word := fieldAt addr 0 ||| fieldAt resp 8

/-- The fields of TX_HDR in their places (10_state.md R28, 30_encoding.md R82). -/
def txHdrFields (dest opc : Byte) (len : Half) : Word := fieldAt dest 0 ||| fieldAt opc 8 ||| fieldAt len 16

/-- CTRL as read (10_state.md R17). -/
def ctrlWord (s : State) : Word := ctrlFields s.sinkEn s.consEn s.irqEn s.consHandle

/-- RX_CFG as read (10_state.md R18). -/
def rxCfgWord (s : State) : Word := rxCfgFields s.rxAddr s.respOpc

/-- TX_HDR as read (10_state.md R28). -/
def txHdrWord (s : State) : Word := txHdrFields s.txDest s.txOpc s.txLen

/-- RX_CRC as read (10_state.md R30). -/
def rxCrcWord (s : State) : Word := fieldAt s.rxCalc 0 ||| fieldAt s.rxRecv 16

/-- MBOX_INFO as read (10_state.md R38). -/
def mboxInfoWord (s : State) : Word := fieldAt s.mboxLen 0 ||| fieldAt s.mboxHandle 16

/-- "A host read of a register returns its current fields, with reserved bits 0 ... a read of CMD returns
0x00000000" (10_state.md R45). -/
def readReg (r : Reg) (s : State) : Word :=
  match r with
  | .ctrl => ctrlWord s
  | .rxCfg => rxCfgWord s
  | .cmd => 0
  | .status => statusWord s
  | .crc => lowHalfWord s.crc
  | .txHdr => txHdrWord s
  | .txCrc => lowHalfWord s.txCrc
  | .rxCrc => rxCrcWord s
  | .lastId => lowHalfWord s.lastId
  | .candidate => lowHalfWord s.candidate
  | .delId => lowHalfWord s.delId
  | .probeId => lowHalfWord s.probeId
  | .scanMax => lowHalfWord s.scanMax
  | .resultId => lowHalfWord s.resultId
  | .mboxInfo => mboxInfoWord s
  | .param => lowHalfWord (BitVec.ofNat 16 s.maxlen)

/-- A host write to a register other than CMD: a RW register takes every non-reserved field from the word
(10_state.md R43), a RO register ignores it (R44). A write to CMD executes a command instead (`writeCmd`). -/
def writeReg (r : Reg) (w : Word) (s : State) : State :=
  match r with
  | .ctrl =>
    { s with
      sinkEn := w.getLsbD 0, consEn := w.getLsbD 1, irqEn := w.getLsbD 2, consHandle := w.extractLsb' 8 8 }
  | .rxCfg => { s with rxAddr := w.extractLsb' 0 8, respOpc := w.extractLsb' 8 8 }
  | .cmd => s
  | .status => s
  | .crc => { s with crc := w.extractLsb' 0 16 }
  | .txHdr => { s with txDest := w.extractLsb' 0 8, txOpc := w.extractLsb' 8 8, txLen := w.extractLsb' 16 16 }
  | .txCrc => s
  | .rxCrc => s
  | .lastId => s
  | .candidate => s
  | .delId => s
  | .probeId => s
  | .scanMax => s
  | .resultId => s
  | .mboxInfo => s
  | .param => s

end Sys2Proof.Machine
end

