-- ==== Sys2Proof/Machine/Checksum.lean ====
section
/-! DEFINITION. The commands of the CRC unit (41_checksum.md). -/

namespace Sys2Proof.Machine

/-- CRC_INIT (41_checksum.md R97). -/
def execCrcInit (s : State) : Host.Outcome State Fault Refusal :=
  runCommand [] (fun t => { t with crc := crcInitial }) .ok s

/-- CRC_UPDATE (41_checksum.md R98). -/
def execCrcUpdate (a : Byte) (s : State) : Host.Outcome State Fault Refusal :=
  runCommand [] (fun t => { t with crc := crc16Update t.crc a }) .ok s

end Sys2Proof.Machine
end

