-- ==== Sys2Proof/Machine/Codec.lean ====
section
/-! DEFINITION. The commands of the frame codec (42_frame_codec.md). The accumulator of a frame checksum lives only
inside a command: the CRC register is neither read nor written (R111, R121). -/

namespace Sys2Proof.Machine

/-- Emit bytes on TX_OUT in order, `emit(x)` for each (42_frame_codec.md R112, 10_state.md R40). -/
def emitBytes (f : List Byte) (s : State) : State := { s with txOut := s.txOut ++ f }

/-- The writes of a TX_SEND whose checks pass (42_frame_codec.md R109). -/
def sendFrame (s : State) : State :=
  { emitBytes (withChecksum (txBody s)) s with txCrc := crc16 crcInitial (txBody s) }

/-- TX_SEND (42_frame_codec.md R109): PAYLOAD_TOO_LARGE checked before NO_TRANSPORT. -/
def execTxSend (s : State) : Host.Outcome State Fault Refusal :=
  runCommand [(payloadTooLong s, .payloadTooLarge), (!s.sinkEn, .noTransport)] sendFrame .ok s

/-- Write STATUS.RX_RESULT (42_frame_codec.md R123). -/
def State.setRxResult (s : State) (r : RxResult) : State := { s with rxResult := r }

/-- Copy a payload to the mailbox and mark it full (42_frame_codec.md R125). -/
def deliver (payload : List Byte) (s : State) : State :=
  { writeBytes .mbox 0 payload s with
    mboxLen := BitVec.ofNat 16 payload.length, mboxHandle := s.consHandle, mboxFull := true }

/-- What becomes of a frame whose checksums have been recorded (42_frame_codec.md R121, R122, R124, R125). -/
def judgeFrame (f : List Byte) (s : State) : State :=
  if frameCalc f ≠ frameRecv f then s.setRxResult .checksumMismatch
  else if s.consEn = false then s.setRxResult .noConsumer
  else if s.mboxFull = true then { s with mboxOverrun := true }.setRxResult .mailboxBusy
  else (deliver (framePayload f) s).setRxResult .delivered

/-- The writes of an RX_DECODE whose length is accepted, for the frame's bytes (42_frame_codec.md R115): length,
opcode, address, then the checksum with both values recorded in RX_CRC. -/
def decodeFrame (f : List Byte) (s : State) : State :=
  if f.length = 0 then s.setRxResult .empty
  else if f.length < 4 then s.setRxResult .frameTooShort
  else if frameOpcode f ≠ s.respOpc then s.setRxResult .notAResponse
  else if frameAddress f ≠ s.rxAddr then s.setRxResult .notAddressedToMe
  else judgeFrame f { s with rxCalc := frameCalc f, rxRecv := frameRecv f }

/-- RX_DECODE (42_frame_codec.md R115): BAD_LENGTH is the only error; every frame outcome is RESULT = OK (R117). -/
def execRxDecode (b : Half) (s : State) : Host.Outcome State Fault Refusal :=
  runCommand [(lengthTooLong b s, .badLength)] (fun t => decodeFrame (bufBytes .rx b.toNat t) t) .ok s

/-- MBOX_ACK (42_frame_codec.md R130). -/
def execMboxAck (s : State) : Host.Outcome State Fault Refusal :=
  runCommand [] (fun t => { t with mboxFull := false, mboxOverrun := false }) .ok s

end Sys2Proof.Machine
end

