-- ==== Sys2Proof/Machine/Common.lean ====
section
/-! DEFINITION. The common commands (40_commands_common.md). The illegal-command rule R87 is `illegalCommand`. -/

namespace Sys2Proof.Machine

/-- NOP (40_commands_common.md R86). -/
def execNop (s : State) : Host.Outcome State Fault Refusal := runCommand [] (fun t => t) .ok s

end Sys2Proof.Machine
end

