-- ==== Sys2Proof/Machine/Sequencer.lean ====
section
/-! DEFINITION. The commands of the identifier sequencer (43_id_sequencer.md). Every one checks, in the order of
R136: the SEQ state, INITED where required, the argument, the command's own condition. -/

namespace Sys2Proof.Machine

/-- The SEQ check: BAD_STATE unless SEQ is the required state (43_id_sequencer.md R136). -/
def needSeq (want : SeqState) (s : State) : Bool × ResultCode := (decide (s.seq ≠ want), .badState)

/-- The INITED check: NOT_INIT unless an init scan has completed (43_id_sequencer.md R136). -/
def needInited (s : State) : Bool × ResultCode := (!s.inited, .notInit)

/-- The argument check of a 0-or-1 operand (43_id_sequencer.md R153, R160, R165). -/
def needBoolean (a : Byte) : Bool × ResultCode := (notBoolean a, .badArg)

/-- INIT_BEGIN (43_id_sequencer.md R138). -/
def execInitBegin (s : State) : Host.Outcome State Fault Refusal :=
  runCommand [needSeq .idle s] (fun t => { t with scanMax := 0, seq := .initScan }) .ok s

/-- INIT_FEED (43_id_sequencer.md R139). -/
def execInitFeed (b : Half) (s : State) : Host.Outcome State Fault Refusal :=
  runCommand [needSeq .initScan s] (fun t => { t with scanMax := if t.scanMax < b then b else t.scanMax }) .ok s

/-- INIT_END (43_id_sequencer.md R143). -/
def execInitEnd (s : State) : Host.Outcome State Fault Refusal :=
  runCommand [needSeq .initScan s] (fun t => { t with lastId := t.scanMax, inited := true, seq := .idle }) .ok s

/-- SAVE_BEGIN (43_id_sequencer.md R150, R151). -/
def execSaveBegin (s : State) : Host.Outcome State Fault Refusal :=
  runCommand [needSeq .idle s, needInited s, (decide (s.lastId = 0xFFFF), .idExhausted)]
    (fun t => { t with candidate := t.lastId + 1, seq := .savePending }) .ok s

/-- SAVE_COMMIT, the safe point (43_id_sequencer.md R155). -/
def execSaveCommit (s : State) : Host.Outcome State Fault Refusal :=
  runCommand [needSeq .savePending s]
    (fun t => { t with lastId := t.candidate, resultId := t.candidate, seq := .idle }) .ok s

/-- SAVE_ABORT (43_id_sequencer.md R153). -/
def execSaveAbort (a : Byte) (s : State) : Host.Outcome State Fault Refusal :=
  runCommand [needSeq .savePending s, needBoolean a]
    (fun t => { t with seq := .idle }) (if a = 0 then .encodeError else .writeError) s

/-- DELETE_BEGIN (43_id_sequencer.md R158). -/
def execDeleteBegin (b : Half) (s : State) : Host.Outcome State Fault Refusal :=
  runCommand [needSeq .idle s, needInited s, (notIdentifier b, .invalidIdentifier)]
    (fun t => { t with delId := b, seq := .deleteRemove }) .ok s

/-- The backward scan arrives at a cursor: 0 ends it with LAST_ID = 0 and no probe, any other value becomes
PROBE_ID (43_id_sequencer.md R161, R162, R166). -/
def scanAt (cursor : Half) (s : State) : State :=
  if cursor = 0 then { s with lastId := 0, seq := .idle } else { s with probeId := cursor, seq := .deleteProbe }

/-- The writes of DELETE_REMOVED (43_id_sequencer.md R160): the removal failed (R164), the removed identifier was
not LAST_ID (R163), or the scan starts at LAST_ID - 1 (R161, R162). -/
def afterRemoval (a : Byte) (s : State) : State :=
  if a = 0 then { s with seq := .idle }
  else if s.delId ≠ s.lastId then { s with seq := .idle }
  else scanAt (s.lastId - 1) s

/-- DELETE_REMOVED (43_id_sequencer.md R160). -/
def execDeleteRemoved (a : Byte) (s : State) : Host.Outcome State Fault Refusal :=
  runCommand [needSeq .deleteRemove s, needBoolean a] (afterRemoval a) (if a = 0 then .deleteFailed else .ok) s

/-- The writes of PROBE_RESULT (43_id_sequencer.md R165): the file exists (R167), or the cursor moves down (R166). -/
def afterProbe (a : Byte) (s : State) : State :=
  if a = 1 then { s with lastId := s.probeId, seq := .idle } else scanAt (s.probeId - 1) s

/-- PROBE_RESULT (43_id_sequencer.md R165). -/
def execProbeResult (a : Byte) (s : State) : Host.Outcome State Fault Refusal :=
  runCommand [needSeq .deleteProbe s, needBoolean a] (afterProbe a) .ok s

/-- LATEST (43_id_sequencer.md R170). -/
def execLatest (s : State) : Host.Outcome State Fault Refusal :=
  runCommand [needSeq .idle s, needInited s, (decide (s.lastId = 0), .notFound)]
    (fun t => { t with resultId := t.lastId }) .ok s

end Sys2Proof.Machine
end

