-- ==== Sys2Proof/Machine/Dispatch.lean ====
section
/-! DEFINITION. One arm a command, each one call of its meaning. -/

namespace Sys2Proof.Machine

def exec (i : Instr) (s : State) : Host.Outcome State Fault Refusal :=
  match i with
  | .nop => Sys2Proof.Machine.execNop s
  | .crcInit => Sys2Proof.Machine.execCrcInit s
  | .crcUpdate a => Sys2Proof.Machine.execCrcUpdate a s
  | .txSend => Sys2Proof.Machine.execTxSend s
  | .rxDecode b => Sys2Proof.Machine.execRxDecode b s
  | .mboxAck => Sys2Proof.Machine.execMboxAck s
  | .initBegin => Sys2Proof.Machine.execInitBegin s
  | .initFeed b => Sys2Proof.Machine.execInitFeed b s
  | .initEnd => Sys2Proof.Machine.execInitEnd s
  | .saveBegin => Sys2Proof.Machine.execSaveBegin s
  | .saveCommit => Sys2Proof.Machine.execSaveCommit s
  | .saveAbort a => Sys2Proof.Machine.execSaveAbort a s
  | .deleteBegin b => Sys2Proof.Machine.execDeleteBegin b s
  | .deleteRemoved a => Sys2Proof.Machine.execDeleteRemoved a s
  | .probeResult a => Sys2Proof.Machine.execProbeResult a s
  | .latest => Sys2Proof.Machine.execLatest s

end Sys2Proof.Machine
end

