-- ==== Sys2Proof/Machine/Access.lean ====
section
/-! DEFINITION. What the block does with one event at its inputs: a host access to the register window
(20_memory.md), a command written to CMD, a reset, a power cycle. -/

namespace Sys2Proof.Machine

/-- A write to CMD executes the command its word decodes to, or the illegal-command rule (30_encoding.md R70,
40_commands_common.md R85); the word itself is kept nowhere (20_memory.md R65). -/
def writeCmd (w : Word) (s : State) : Host.Outcome State Fault Refusal :=
  match decode w with
  | .ok i => exec i s
  | .error (.unassignedOpcode _) => illegalCommand s

/-- The word a performed read returns, from the state at the read: the block caches nothing, so a read after a command
sees what the command wrote (10_state.md R45, 20_memory.md R55, R66). -/
def readWord (o : Offset) (s : State) : Word :=
  match placeAt o with
  | .register r => readReg r s
  | .reserved => 0
  | .buffer b i => readBufferWord b i s

/-- A performed write (10_state.md R19, R43, R44; 20_memory.md R55). -/
def writeWord (o : Offset) (w : Word) (s : State) : Host.Outcome State Fault Refusal :=
  match placeAt o with
  | .register .cmd => writeCmd w s
  | .register r => .next (writeReg r w s)
  | .reserved => .next s
  | .buffer .mbox _ => .next s
  | .buffer b i => .next (writeBufferWord b i w s)

/-- Whether the block performs the access: "if width != 32 or offset[1:0] != 0: raise BusError(BASE + offset)"
(20_memory.md R52). -/
def accessible (width : AccessWidth) (o : Offset) : Bool := decide (width = .w32) && decide (o.toNat % 4 = 0)

/-- One host access, performed whole or answered with a bus error before anything else (20_memory.md R58,
60_exceptions.md R178). A read has no side effect at any offset of the window: it changes the model's own `response`
and nothing of the block (20_memory.md R66, 10_state.md R45). No offset is protected or translated (20_memory.md R67). -/
def performAccess (a : HostAccess) (s : State) : Host.Outcome State Fault Refusal :=
  match windowOffset a.addr with
  | none => raiseBusError (busAddress a.addr)
  | some o =>
    if accessible a.width o then
      match a.op with
      | .read => .next { s with response := .readData (readWord o s) }
      | .write w => writeWord o w { s with response := .writeDone }
    else raiseBusError (busAddress a.addr)

/-- One event at the inputs. A reset wins over the access it falls in, which is not performed
(60_exceptions.md R179). -/
def performEvent (e : HostEvent) (s : State) : Host.Outcome State Fault Refusal :=
  match e with
  | .access a => performAccess a s
  | .reset _ => .next (resetBlock s)
  | .powerCycle => .next (powerUp s)

/-- The host access that writes a word to CMD (10_state.md R19). -/
def cmdWrite (w : Word) : HostAccess where
  addr := .window (registerOffset .cmd)
  width := .w32
  op := .write w

/-- The next event of the outside, each after every earlier one (20_memory.md R62, R63), or nothing: with no event the
block waits (70_reset_and_hazards.md R202). -/
def nextEvent (s : State) : Host.Outcome State Fault Refusal :=
  match s.inbox with
  | [] => .next s
  | e :: rest => performEvent e { s with inbox := rest }

end Sys2Proof.Machine
end

