-- ==== Sys2Proof/Machine/Assembler.lean ====
section
/-! DEFINITION. The assembler of 30_encoding.md R78 to R82: each line of a host program as the host accesses it
expands to. -/

namespace Sys2Proof.Machine

/-- The offset a target stands for (30_encoding.md R78). -/
def targetOffset : Target → Offset
  | .reg r => registerOffset r
  | .buf b i => BitVec.ofNat 14 (bufferBase b + i)
  | .num o => o

/-- `WR <target>, <value32>` (30_encoding.md R78). -/
def wrLine (t : Target) (v : Word) : HostAccess where
  addr := .window (targetOffset t)
  width := .w32
  op := .write v

/-- `RD <target>` (30_encoding.md R78). -/
def rdLine (t : Target) : HostAccess where
  addr := .window (targetOffset t)
  width := .w32
  op := .read

/-- The words of WRBUF, four bytes each, "a byte beyond b(n-1) is written as 0x00" (30_encoding.md R80). -/
def wrbufWord (bytes : List Byte) (k : Nat) : Word :=
  packWord (bytes.getD (4 * k) 0) (bytes.getD (4 * k + 1) 0) (bytes.getD (4 * k + 2) 0) (bytes.getD (4 * k + 3) 0)

/-- The accesses a line expands to, in order (30_encoding.md R78 to R82). -/
def expandLine : HostLine → List HostAccess
  | .wr t v => [wrLine t v]
  | .rd t => [rdLine t]
  | .command i => [cmdWrite (encode i)]
  | .wrbuf b bytes =>
    (List.range ((bytes.length + 3) / 4)).map fun k => wrLine (.buf b (4 * k)) (wrbufWord bytes k)
  | .crcBytes bytes => bytes.map fun x => cmdWrite (encode (.crcUpdate x))
  | .ctrlSet sink cons irq handle => [wrLine (.reg .ctrl) (ctrlFields sink cons irq handle)]
  | .rxcfgSet addr resp => [wrLine (.reg .rxCfg) (rxCfgFields addr resp)]
  | .txhdrSet dest opc len => [wrLine (.reg .txHdr) (txHdrFields dest opc len)]

/-- The events a host program presents to the block. -/
def expandProgram (p : List HostLine) : List HostEvent := (p.flatMap expandLine).map .access

end Sys2Proof.Machine
end

