-- ==== Sys2Proof/Machine/Step.lean ====
section
/-! DEFINITION. One step of the machine: the next event of the host interface, performed whole (20_memory.md R58,
R62). The block has no program counter (10_state.md R14): "where step fetches its next instruction" is the word the
next event writes to CMD. -/

namespace Sys2Proof.Machine

/-- Perform the next event (10_state.md R47: "a step per host access"). -/
def step (s : State) : Host.Outcome State Fault Refusal := nextEvent s

/-- The state with a write of the command word `w` (its bits from `nbits` up being 0) as the next event, so that the
very next step executes it. -/
def State.withFetchWord (s : State) (nbits w : Nat) : State :=
  { s with inbox := .access (cmdWrite (BitVec.ofNat 32 (w % 2 ^ nbits))) :: s.inbox }

end Sys2Proof.Machine
end

