-- ==== Sys2Proof/Safety.lean ====
section
/-! DEFINITION. What the statements call a good state and a safe event: the invariant every step keeps, and the
accesses that raise no bus error. -/

namespace Sys2Proof.Machine

/-- What SEQ, INITED and the identifier registers say of each other (43_id_sequencer.md R136, R137, R150, R155,
R158, R161, R163, R168; 10_state.md R34). -/
structure SequencerInv (s : State) : Prop where
  /-- Before the first INIT_END no save and no delete is pending and LAST_ID is 0 (R136 "Implied"). -/
  uninited : s.inited = false → (s.seq = .idle ∨ s.seq = .initScan) ∧ s.lastId = 0
  /-- A pending save's candidate is LAST_ID + 1 and has not wrapped (R150, R155). -/
  saving : s.seq = .savePending → s.lastId ≠ 0xFFFF ∧ s.candidate = s.lastId + 1
  /-- A pending delete names an identifier (R158). -/
  removing : s.seq = .deleteRemove → s.delId ≠ 0
  /-- A scan runs only after the removal of LAST_ID, below it, and never at 0 (R161, R163, R168, 10_state.md R34). -/
  probing : s.seq = .deleteProbe → s.delId = s.lastId ∧ s.probeId ≠ 0 ∧ s.probeId < s.lastId

/-- What the mailbox flags say (42_frame_codec.md R124, R125, R130). -/
structure MailboxInv (s : State) : Prop where
  /-- MBOX_OVERRUN is set only while the mailbox is full and cleared with it. -/
  overrun : s.mboxOverrun = true → s.mboxFull = true
  /-- A delivered payload fits MBOXBUF. -/
  fits : s.mboxLen.toNat ≤ s.maxlen - 4

/-- The buffers' stored bytes are in canonical form, below the capacities of 10_state.md R39. -/
structure BufferInv (s : State) : Prop where
  /-- MAXLEN is within 00_scope.md R5's bounds. -/
  maxlen : Config.maxlenOk s.maxlen = true
  /-- Each buffer's list is canonical. -/
  canonical : ∀ b, Memory.wf (s.capacity b) (s.stored b) = true

/-- The invariant of the block. -/
structure Inv (s : State) : Prop where
  sequencer : SequencerInv s
  mailbox : MailboxInv s
  buffers : BufferInv s

/-! ### What the next event is -/

/-- The offset and the word an event writes, if the block performs it as a write to its window
(20_memory.md R50, R51). -/
def writeOf (e : HostEvent) : Option (Offset × Word) :=
  match e with
  | .access a =>
    match windowOffset a.addr, a.op with
    | some o, .write w => if accessible a.width o then some (o, w) else none
    | some _, .read => none
    | none, _ => none
  | .reset _ => none
  | .powerCycle => none

/-- The word an event writes to CMD, at offset 0x008, if it does (10_state.md R15, R19). -/
def cmdWordOf (e : HostEvent) : Option Word :=
  match writeOf e with
  | some (o, w) => if o = 0x008 then some w else none
  | none => none

/-- The command of the opcode map an event executes, if it executes one. -/
def eventCommand (e : HostEvent) : Option Instr :=
  match cmdWordOf e with
  | some w =>
    match decode w with
    | .ok i => some i
    | .error _ => none
  | none => none

/-- Whether an event is a reset or a power cycle. -/
def eventIsReset : HostEvent → Bool
  | .access _ => false
  | .reset _ => true
  | .powerCycle => true

/-- The offset and the word the next event writes, if it is a performed write. -/
def nextWrite (s : State) : Option (Offset × Word) := s.inbox.head?.bind writeOf

/-- The command the next event executes, if it executes one. -/
def nextCommand (s : State) : Option Instr := s.inbox.head?.bind eventCommand

/-- Whether the next event is a reset or a power cycle. -/
def nextIsReset (s : State) : Bool := s.inbox.head?.any eventIsReset

/-- The state in which the outside will present the given commands next, each as a write to CMD. -/
def State.withCommands (s : State) (p : List Instr) : State :=
  { s with inbox := p.map fun i => .access (cmdWrite (encode i)) }

/-! ### The sequencer as 43_id_sequencer.md R136 and R137 tabulate it -/

/-- The SEQ column of 43_id_sequencer.md R136; none for the commands of the other units. -/
def requiredSeq : Instr → Option SeqState
  | .nop => none
  | .crcInit => none
  | .crcUpdate _ => none
  | .txSend => none
  | .rxDecode _ => none
  | .mboxAck => none
  | .initBegin => some .idle
  | .initFeed _ => some .initScan
  | .initEnd => some .initScan
  | .saveBegin => some .idle
  | .saveCommit => some .savePending
  | .saveAbort _ => some .savePending
  | .deleteBegin _ => some .idle
  | .deleteRemoved _ => some .deleteRemove
  | .probeResult _ => some .deleteProbe
  | .latest => some .idle

/-- The transition table of 43_id_sequencer.md R137: the state a command takes SEQ to; "a command not listed for a
state leaves SEQ unchanged". Differences of identifiers are on numbers, as R137 writes them. -/
def seqAfter (i : Instr) (s : State) : SeqState :=
  match s.seq, i with
  | .idle, .initBegin => .initScan
  | .initScan, .initEnd => .idle
  | .idle, .saveBegin => if s.inited = true ∧ s.lastId.toNat < 0xFFFF then .savePending else .idle
  | .savePending, .saveCommit => .idle
  | .savePending, .saveAbort a => if a.toNat ≤ 1 then .idle else .savePending
  | .idle, .deleteBegin b => if s.inited = true ∧ 1 ≤ b.toNat then .deleteRemove else .idle
  | .deleteRemove, .deleteRemoved a =>
    if a.toNat = 0 then .idle
    else if a.toNat = 1 then
      if s.delId ≠ s.lastId ∨ s.lastId.toNat - 1 = 0 then .idle else .deleteProbe
    else .deleteRemove
  | .deleteProbe, .probeResult a =>
    if a.toNat = 1 then .idle
    else if a.toNat = 0 then if s.probeId.toNat - 1 = 0 then .idle else .deleteProbe
    else .deleteProbe
  | q, _ => q

/-- A host that answers every probe of a scan by the given truth about storage, at most `n` times
(43_id_sequencer.md R157, 70_reset_and_hazards.md R213). -/
def answerProbes (stored : Half → Bool) : Nat → State → Host.Outcome State Fault Refusal
  | 0, s => .next s
  | n + 1, s =>
    if s.seq = .deleteProbe then
      match exec (.probeResult (if stored s.probeId then 1 else 0)) s with
      | .next t => answerProbes stored n t
      | .fault r => .fault r
      | .refused r => .refused r
    else .next s

/-! ### The units (40_commands_common.md R88) -/

/-- `s` with the identifier sequencer's registers taken from `t`. -/
def withSequencerOf (t s : State) : State :=
  { s with
    seq := t.seq, inited := t.inited, lastId := t.lastId, candidate := t.candidate, delId := t.delId,
    probeId := t.probeId, scanMax := t.scanMax, resultId := t.resultId }

/-- `s` with the CRC unit's and the frame codec's registers, buffers and output taken from `t`. -/
def withCodecOf (t s : State) : State :=
  { s with
    sinkEn := t.sinkEn, consEn := t.consEn, irqEn := t.irqEn, consHandle := t.consHandle, rxAddr := t.rxAddr,
    respOpc := t.respOpc, mboxFull := t.mboxFull, mboxOverrun := t.mboxOverrun, rxResult := t.rxResult,
    crc := t.crc, txDest := t.txDest, txOpc := t.txOpc, txLen := t.txLen, txCrc := t.txCrc, rxCalc := t.rxCalc,
    rxRecv := t.rxRecv, mboxLen := t.mboxLen, mboxHandle := t.mboxHandle, txbuf := t.txbuf, rxbuf := t.rxbuf,
    mboxbuf := t.mboxbuf, txOut := t.txOut }

/-! ### Safe events -/

/-- An event that raises no bus error (60_exceptions.md R177). -/
def HostEvent.busSafe : HostEvent → Bool
  | .access a => a.wellFormed
  | .reset _ => true
  | .powerCycle => true

/-- A run's remaining events raise no bus error. -/
def busSafe (s : State) : Bool := s.inbox.all HostEvent.busSafe

end Sys2Proof.Machine
end

