-- ==== Sys2Proof/Certificates/Slice0/Obligations.lean ====
section
/-! DEFINITION. The statements for the provers. Each docstring says which rules of spec/ it formalises; where a
clause is the model's own choice the docstring says so and names the log entry. A conclusion
`exec i s = .next { s with ... }` is also the instruction's frame: every field not named, every buffer's stored
bytes among them, is as in `s`. -/

open Sys2Proof Sys2Proof.Machine

/-! ### Encoding -/

/-- 30_encoding.md R70, R74, R79: decoding the assembler's word of a command gives the command back, for every
operand value. -/
def Obligations.DecodeEncodeRoundTrip : Prop :=
  ∀ i : Instr, i.wellFormed = true → decode (encode i) = .ok i

/-- 30_encoding.md R73: a word that agrees with a command word on the bits the command reads (`readMask`, R70 to R72)
is the same command and has the same effect; the assembler's word is the one whose other bits are 0 (R79). -/
def Obligations.UnreadFieldsAreIgnored : Prop :=
  ∀ (w w' : Word) (i : Instr), decode w = .ok i → w' &&& readMask i = w &&& readMask i →
    decode w' = .ok i ∧ (∀ s : State, writeCmd w' s = writeCmd w s) ∧ encode i = w &&& readMask i

/-- 30_encoding.md R76, 40_commands_common.md R87: a word whose OP is 0x03 to 0x0F, 0x13 to 0x1F or 0x2A to 0xFF is
no command, and written to CMD it writes RESULT = ILLEGAL_CMD and changes nothing else; every other word is a
command. -/
def Obligations.UnassignedOpcodesAreIllegal : Prop :=
  ∀ w : Word,
    let op := (opField w).toNat
    let unassigned := (0x03 ≤ op ∧ op ≤ 0x0F) ∨ (0x13 ≤ op ∧ op ≤ 0x1F) ∨ 0x2A ≤ op
    (unassigned → decode w = .error (.unassignedOpcode (opField w)) ∧
      ∀ s : State, writeCmd w s = .next { s with result := .illegalCmd }) ∧
    (¬ unassigned → ∃ i, decode w = .ok i)

/-- 30_encoding.md R70, R74, R79: words written out from the encoding tables, one or more a family, decode to the
commands they stand for; a sanity statement. -/
def Obligations.SpecWordsDecode : Prop :=
  decode 0x00000000 = .ok .nop ∧ decode 0x00003102 = .ok (.crcUpdate 0x31) ∧
  decode 0xFFFF4102 = .ok (.crcUpdate 0x41) ∧ decode 0x00000010 = .ok .txSend ∧
  decode 0x00060011 = .ok (.rxDecode 6) ∧ decode 0x00050021 = .ok (.initFeed 5) ∧
  decode 0x00000125 = .ok (.saveAbort 1) ∧ decode 0x00030026 = .ok (.deleteBegin 3) ∧
  decode 0x00000328 = .ok (.probeResult 3) ∧ decode 0x0000002A = .error (.unassignedOpcode 0x2A)

/-- 10_state.md R19, 30_encoding.md R70: a step at a state whose next event writes the word `w` to CMD, where `w`
decodes to `i`, is `exec i` on that state with the event taken from the queue and the bus answer "write done" (the
model's own fields, entries 5 and 6). -/
def Obligations.StepRunsDecodedCommand : Prop :=
  ∀ (s : State) (w : Word) (rest : List HostEvent) (i : Instr),
    s.inbox = .access { addr := .window 0x008, width := .w32, op := .write w } :: rest →
    decode w = .ok i → i.wellFormed = true →
    step s = exec i { s with inbox := rest, response := .writeDone }

/-! ### Common commands and the CRC unit -/

/-- 40_commands_common.md R86: NOP writes RESULT = OK and nothing else. -/
def Obligations.NopWritesOnlyResult : Prop :=
  ∀ s : State, exec .nop s = .next { s with result := .ok }

/-- 41_checksum.md R97: CRC_INIT writes CRC = 0xFFFF and RESULT = OK and nothing else. -/
def Obligations.CrcInitSetsInitialValue : Prop :=
  ∀ s : State, exec .crcInit s = .next { s with crc := 0xFFFF, result := .ok }

/-- 41_checksum.md R98 with R95 written out: CRC_UPDATE exclusive-ors the byte into the low byte of CRC, then does
eight shift steps (shift right; if the bit shifted out was 1, exclusive or with 0xA001), and writes nothing else but
RESULT. -/
def Obligations.CrcUpdateRunsEightShiftSteps : Prop :=
  ∀ (a : Byte) (s : State),
    exec (.crcUpdate a) s =
      .next { s with
        crc := (fun v : Half => if v.getLsbD 0 = true then (v >>> 1) ^^^ 0xA001 else v >>> 1)^[8]
          (s.crc ^^^ a.setWidth 16),
        result := .ok }

/-- From 41_checksum.md R95: the update function is linear over exclusive or, in the running value and the byte
together. -/
def Obligations.CrcUpdateIsLinear : Prop :=
  ∀ (v w : Half) (a b : Byte), crc16Update (v ^^^ w) (a ^^^ b) = crc16Update v a ^^^ crc16Update w b

/-- 41_checksum.md R99: CRC_INIT then CRC_UPDATE of each byte leaves CRC = crc16(0xFFFF, bytes), and a host write of
`v` to CRC (offset 0x010) in place of CRC_INIT leaves crc16(v, bytes); nothing else changes but RESULT and the
model's own inbox and bus answer (entries 5 and 6). -/
def Obligations.CrcCommandSequenceComputesCrc : Prop :=
  ∀ (s : State) (v : Half) (bytes : List Byte),
    Host.Core.run core (bytes.length + 1) (s.withCommands (.crcInit :: bytes.map .crcUpdate)) =
      .next { s with crc := crc16 0xFFFF bytes, result := .ok, inbox := [], response := .writeDone } ∧
    Host.Core.run core (bytes.length + 1)
      { s with inbox :=
          .access { addr := .window 0x010, width := .w32, op := .write (v.setWidth 32) } ::
            (s.withCommands (bytes.map .crcUpdate)).inbox } =
      .next { s with
        crc := crc16 v bytes, result := if bytes = [] then s.result else .ok, inbox := [], response := .writeDone }

/-- 41_checksum.md R100: a byte sequence followed by its own checksum, low byte first, has checksum 0x0000; so a frame
with a correct checksum, fed whole through CRC_UPDATE from CRC = 0xFFFF, leaves CRC = 0x0000. -/
def Obligations.CrcResidueIsZero : Prop :=
  ∀ bytes : List Byte,
    let c := crc16 0xFFFF bytes
    let frame := bytes ++ [c.extractLsb' 0 8, c.extractLsb' 8 8]
    crc16 0xFFFF frame = 0x0000 ∧
    ∀ s : State, s.crc = 0xFFFF →
      ∃ t, Host.Core.run core frame.length (s.withCommands (frame.map .crcUpdate)) = .next t ∧ t.crc = 0x0000

/-- 41_checksum.md R101: flipping any one bit of a frame of at least 4 bytes whose checksum is right makes the received
checksum differ from the recomputed one. -/
def Obligations.SingleBitFlipIsDetected : Prop :=
  ∀ (f : List Byte) (i k : Nat), 4 ≤ f.length → i < f.length → k < 8 → frameCalc f = frameRecv f →
    let g := f.set i (f.getD i 0 ^^^ (1#8 <<< k))
    frameCalc g ≠ frameRecv g

/-! ### Frame codec -/

/-- 42_frame_codec.md R109 to R112: TX_SEND. PAYLOAD_TOO_LARGE first, NO_TRANSPORT second, each writing RESULT
alone; else the bytes DEST, OPC, TXBUF[0 .. n-1] and their checksum, low byte first, are appended to TX_OUT, TX_CRC
takes the checksum, and nothing else changes but RESULT. -/
def Obligations.TxSendEmitsFrameOrFails : Prop :=
  ∀ s : State,
    let n := s.txLen.toNat
    let body := s.txDest :: s.txOpc :: (List.range n).map fun i => bufByte .tx i s
    let c := crc16 0xFFFF body
    (s.maxlen < n + 4 → exec .txSend s = .next { s with result := .payloadTooLarge }) ∧
    (n + 4 ≤ s.maxlen → s.sinkEn = false → exec .txSend s = .next { s with result := .noTransport }) ∧
    (n + 4 ≤ s.maxlen → s.sinkEn = true →
      exec .txSend s = .next { s with
        txOut := s.txOut ++ (body ++ [c.extractLsb' 0 8, c.extractLsb' 8 8]), txCrc := c, result := .ok })

/-- 42_frame_codec.md R113 (e): after a TX_SEND that emitted, a second one emits the same bytes again and changes
nothing else. -/
def Obligations.SecondTxSendEmitsSameFrame : Prop :=
  ∀ s t : State, exec .txSend s = .next t → t.result = .ok →
    exec .txSend t = .next { t with txOut := t.txOut ++ t.txOut.drop s.txOut.length }

/-- 42_frame_codec.md R115, R116, R117, R123: RX_DECODE with L > MAXLEN writes RESULT = BAD_LENGTH alone; with
L <= MAXLEN it completes with RESULT = OK and RX_RESULT the first outcome that applies, in the order length, opcode,
address, checksum, consumer, mailbox. -/
def Obligations.RxDecodeReportsFirstOutcome : Prop :=
  ∀ (b : Half) (s : State),
    let L := b.toNat
    let f := fun i => bufByte .rx i s
    let calc' := crc16 0xFFFF ((List.range (L - 2)).map f)
    let recv := (f (L - 2)).setWidth 16 ||| ((f (L - 1)).setWidth 16 <<< 8)
    (s.maxlen < L → exec (.rxDecode b) s = .next { s with result := .badLength }) ∧
    (L ≤ s.maxlen → ∃ t, exec (.rxDecode b) s = .next t ∧ t.result = .ok ∧
      t.rxResult =
        if L = 0 then .empty
        else if L < 4 then .frameTooShort
        else if f 1 ≠ s.respOpc then .notAResponse
        else if f 0 ≠ s.rxAddr then .notAddressedToMe
        else if calc' ≠ recv then .checksumMismatch
        else if s.consEn = false then .noConsumer
        else if s.mboxFull = true then .mailboxBusy
        else .delivered)

/-- 42_frame_codec.md R118, R119, R120: a frame dropped for its length, its opcode or its address changes RX_RESULT
and RESULT and nothing else (RX_CRC and the mailbox among them). -/
def Obligations.RxDecodeHeaderDrops : Prop :=
  ∀ (b : Half) (s : State), b.toNat ≤ s.maxlen →
    (b.toNat = 0 → exec (.rxDecode b) s = .next { s with rxResult := .empty, result := .ok }) ∧
    (1 ≤ b.toNat → b.toNat ≤ 3 → exec (.rxDecode b) s = .next { s with rxResult := .frameTooShort, result := .ok }) ∧
    (4 ≤ b.toNat → bufByte .rx 1 s ≠ s.respOpc →
      exec (.rxDecode b) s = .next { s with rxResult := .notAResponse, result := .ok }) ∧
    (4 ≤ b.toNat → bufByte .rx 1 s = s.respOpc → bufByte .rx 0 s ≠ s.rxAddr →
      exec (.rxDecode b) s = .next { s with rxResult := .notAddressedToMe, result := .ok })

/-- 42_frame_codec.md R121, R122, R124: a frame for this node records both checksums in RX_CRC, and is dropped with
nothing else changed but RX_RESULT and RESULT when they disagree, or no consumer is registered, or the mailbox is
full (which also sets MBOX_OVERRUN and keeps the entry). -/
def Obligations.RxDecodeChecksumStageDrops : Prop :=
  ∀ (b : Half) (s : State), 4 ≤ b.toNat → b.toNat ≤ s.maxlen → bufByte .rx 1 s = s.respOpc →
    bufByte .rx 0 s = s.rxAddr →
    let f := fun i => bufByte .rx i s
    let calc' := crc16 0xFFFF ((List.range (b.toNat - 2)).map f)
    let recv := (f (b.toNat - 2)).setWidth 16 ||| ((f (b.toNat - 1)).setWidth 16 <<< 8)
    (calc' ≠ recv → exec (.rxDecode b) s = .next { s with
      rxCalc := calc', rxRecv := recv, rxResult := .checksumMismatch, result := .ok }) ∧
    (calc' = recv → s.consEn = false → exec (.rxDecode b) s = .next { s with
      rxCalc := calc', rxRecv := recv, rxResult := .noConsumer, result := .ok }) ∧
    (calc' = recv → s.consEn = true → s.mboxFull = true → exec (.rxDecode b) s = .next { s with
      rxCalc := calc', rxRecv := recv, mboxOverrun := true, rxResult := .mailboxBusy, result := .ok })

/-- 42_frame_codec.md R125: a valid frame for a registered consumer with the mailbox empty is delivered: MBOXBUF
bytes 0 to L-5 take RXBUF bytes 2 to L-3 and the others keep their values, MBOX_INFO takes L - 4 and the consumer's
handle, MBOX_FULL and IRQ (if enabled) rise, and nothing else changes but RX_CRC, RX_RESULT and RESULT. -/
def Obligations.RxDecodeDelivers : Prop :=
  ∀ (b : Half) (s : State), 4 ≤ b.toNat → b.toNat ≤ s.maxlen → bufByte .rx 1 s = s.respOpc →
    bufByte .rx 0 s = s.rxAddr → s.consEn = true → s.mboxFull = false →
    let f := fun i => bufByte .rx i s
    let calc' := crc16 0xFFFF ((List.range (b.toNat - 2)).map f)
    calc' = (f (b.toNat - 2)).setWidth 16 ||| ((f (b.toNat - 1)).setWidth 16 <<< 8) →
    ∃ t, exec (.rxDecode b) s = .next t ∧
      t = { s with
        rxCalc := calc', rxRecv := calc', mboxbuf := t.mboxbuf, mboxLen := b - 4, mboxHandle := s.consHandle,
        mboxFull := true, rxResult := .delivered, result := .ok } ∧
      (∀ i, bufByte .mbox i t = if i < b.toNat - 4 then f (2 + i) else bufByte .mbox i s) ∧
      (∀ i, bufByte .tx i t = bufByte .tx i s ∧ bufByte .rx i t = bufByte .rx i s) ∧
      irqOut t = s.irqEn

/-- 42_frame_codec.md R130: MBOX_ACK clears MBOX_FULL and MBOX_OVERRUN, full or not, writes RESULT = OK, and nothing
else; IRQ falls to 0. -/
def Obligations.MboxAckEmptiesMailbox : Prop :=
  ∀ s : State, ∃ t, exec .mboxAck s = .next t ∧
    t = { s with mboxFull := false, mboxOverrun := false, result := .ok } ∧ irqOut t = false

/-- 42_frame_codec.md R131: at any step MBOX_FULL rises only by a delivering RX_DECODE and falls only by MBOX_ACK or
reset, while it stays 1 the entry is unchanged, and an RX_DECODE accepted while it is 1 does not deliver. -/
def Obligations.MailboxIsSingleSlot : Prop :=
  ∀ s t : State, step s = .next t →
    (s.mboxFull = false → t.mboxFull = true → ∃ b, nextCommand s = some (.rxDecode b) ∧ t.rxResult = .delivered) ∧
    (s.mboxFull = true → t.mboxFull = false → nextCommand s = some .mboxAck ∨ nextIsReset s = true) ∧
    (s.mboxFull = true → t.mboxFull = true →
      t.mboxbuf = s.mboxbuf ∧ t.mboxLen = s.mboxLen ∧ t.mboxHandle = s.mboxHandle) ∧
    (s.mboxFull = true → ∀ b, nextCommand s = some (.rxDecode b) → t.result = .ok → t.rxResult ≠ .delivered)

/-- 60_exceptions.md R181, 10_state.md R41: at any step the interrupt output rises only by a delivering RX_DECODE with
IRQ_EN = 1, or by a host write to CTRL (offset 0x000) that sets IRQ_EN (bit 2) while the mailbox is full; it falls only
by MBOX_ACK, by a host write to CTRL that clears IRQ_EN, or by reset. -/
def Obligations.IrqHasOneSource : Prop :=
  ∀ s t : State, step s = .next t →
    (irqOut s = false → irqOut t = true →
      (∃ b, nextCommand s = some (.rxDecode b) ∧ t.rxResult = .delivered ∧ s.irqEn = true) ∨
      (s.mboxFull = true ∧ s.irqEn = false ∧ t.irqEn = true ∧
        ∃ w, nextWrite s = some (0x000, w) ∧ w.getLsbD 2 = true)) ∧
    (irqOut s = true → irqOut t = false →
      nextCommand s = some .mboxAck ∨ nextIsReset s = true ∨
      (t.mboxFull = true ∧ t.irqEn = false ∧ ∃ w, nextWrite s = some (0x000, w) ∧ w.getLsbD 2 = false))

/-- 42_frame_codec.md R132: with the sink enabled and n + 4 <= MAXLEN, the bytes a TX_SEND appended to TX_OUT, standing in RXBUF of a block with the same MAXLEN,
whose RX_CFG matches the frame's header, with a consumer registered and the mailbox empty, are decoded by
RX_DECODE n+4 to the payload that was sent, with both halves of RX_CRC equal to TX_CRC. -/
def Obligations.EncodeThenDecodeDelivers : Prop :=
  ∀ (s t u : State) (b : Half),
    s.sinkEn = true → s.txLen.toNat + 4 ≤ s.maxlen → exec .txSend s = .next t → b.toNat = s.txLen.toNat + 4 →
    (∀ i, i < b.toNat → bufByte .rx i u = (t.txOut.drop s.txOut.length).getD i 0) →
    u.maxlen = s.maxlen → u.rxAddr = s.txDest → u.respOpc = s.txOpc → u.consEn = true → u.mboxFull = false →
    ∃ v, exec (.rxDecode b) u = .next v ∧ v.rxResult = .delivered ∧ v.mboxLen = s.txLen ∧ v.mboxFull = true ∧
      (∀ i, i < s.txLen.toNat → bufByte .mbox i v = bufByte .tx i s) ∧ v.rxCalc = t.txCrc ∧ v.rxRecv = t.txCrc

/-- 42_frame_codec.md R133: of a frame that would be delivered, a copy with any one bit changed is not delivered and
changes nothing in the mailbox; a change in the payload or checksum bytes gives CHECKSUM_MISMATCH. -/
def Obligations.CorruptedFrameIsNotDelivered : Prop :=
  ∀ (s t u : State) (b : Half) (i k : Nat) (m : Memory),
    b.toNat ≤ s.maxlen → exec (.rxDecode b) s = .next t → t.rxResult = .delivered →
    i < b.toNat → k < 8 → u = { s with rxbuf := m } →
    (∀ j, j < b.toNat → bufByte .rx j u = if j = i then bufByte .rx j s ^^^ (1#8 <<< k) else bufByte .rx j s) →
    ∃ v, exec (.rxDecode b) u = .next v ∧ v.rxResult ≠ .delivered ∧ (2 ≤ i → v.rxResult = .checksumMismatch) ∧
      v.mboxFull = s.mboxFull ∧ v.mboxOverrun = s.mboxOverrun ∧ v.mboxbuf = s.mboxbuf ∧ v.mboxLen = s.mboxLen ∧
      v.mboxHandle = s.mboxHandle

/-! ### Identifier sequencer -/

/-- 43_id_sequencer.md R138, R139, R143: the three commands of the init scan, in the state each requires and out of
it, with nothing else changed. -/
def Obligations.InitScanCommands : Prop :=
  ∀ (b : Half) (s : State),
    (s.seq ≠ .idle → exec .initBegin s = .next { s with result := .badState }) ∧
    (s.seq = .idle → exec .initBegin s = .next { s with scanMax := 0, seq := .initScan, result := .ok }) ∧
    (s.seq ≠ .initScan → exec (.initFeed b) s = .next { s with result := .badState }) ∧
    (s.seq = .initScan →
      exec (.initFeed b) s =
        .next { s with scanMax := BitVec.ofNat 16 (max s.scanMax.toNat b.toNat), result := .ok }) ∧
    (s.seq ≠ .initScan → exec .initEnd s = .next { s with result := .badState }) ∧
    (s.seq = .initScan →
      exec .initEnd s = .next { s with lastId := s.scanMax, inited := true, seq := .idle, result := .ok })

/-- 43_id_sequencer.md R135, R138 to R143: from IDLE, a whole init scan over any identifiers leaves LAST_ID their
maximum (0 if there is none, R142), INITED = 1, SEQ = IDLE and RESULT = OK, and changes nothing else but SCAN_MAX and
the model's own inbox and bus answer (entries 5 and 6). -/
def Obligations.InitScanFindsMaximum : Prop :=
  ∀ (s : State) (ids : List Half), s.seq = .idle →
    let top := BitVec.ofNat 16 (ids.foldr (fun v n => max v.toNat n) 0)
    Host.Core.run core (ids.length + 2) (s.withCommands (.initBegin :: (ids.map .initFeed ++ [.initEnd]))) =
      .next { s with
        scanMax := top, lastId := top, inited := true, seq := .idle, result := .ok, inbox := [],
        response := .writeDone }

/-- 43_id_sequencer.md R150, R151: SAVE_BEGIN fails with BAD_STATE, NOT_INIT or ID_EXHAUSTED in that order, changing
RESULT alone; else CANDIDATE = LAST_ID + 1 and SEQ = SAVE_PENDING. -/
def Obligations.SaveBeginReservesCandidate : Prop :=
  ∀ s : State,
    (s.seq ≠ .idle → exec .saveBegin s = .next { s with result := .badState }) ∧
    (s.seq = .idle → s.inited = false → exec .saveBegin s = .next { s with result := .notInit }) ∧
    (s.seq = .idle → s.inited = true → s.lastId.toNat = 0xFFFF →
      exec .saveBegin s = .next { s with result := .idExhausted }) ∧
    (s.seq = .idle → s.inited = true → s.lastId.toNat < 0xFFFF →
      exec .saveBegin s = .next { s with
        candidate := BitVec.ofNat 16 (s.lastId.toNat + 1), seq := .savePending, result := .ok })

/-- 43_id_sequencer.md R155, R153: SAVE_COMMIT and SAVE_ABORT, in SAVE_PENDING and out of it, with every value of the
reason and nothing else changed. -/
def Obligations.SaveCommitAndAbort : Prop :=
  ∀ (a : Byte) (s : State),
    (s.seq ≠ .savePending → exec .saveCommit s = .next { s with result := .badState }) ∧
    (s.seq = .savePending →
      exec .saveCommit s = .next { s with
        lastId := s.candidate, resultId := s.candidate, seq := .idle, result := .ok }) ∧
    (s.seq ≠ .savePending → exec (.saveAbort a) s = .next { s with result := .badState }) ∧
    (s.seq = .savePending → 1 < a.toNat → exec (.saveAbort a) s = .next { s with result := .badArg }) ∧
    (s.seq = .savePending → a.toNat = 0 →
      exec (.saveAbort a) s = .next { s with seq := .idle, result := .encodeError }) ∧
    (s.seq = .savePending → a.toNat = 1 →
      exec (.saveAbort a) s = .next { s with seq := .idle, result := .writeError })

/-- 43_id_sequencer.md R146: during a save no command changes LAST_ID but SAVE_COMMIT, which makes it CANDIDATE;
SAVE_BEGIN and SAVE_ABORT never write it in any state. -/
def Obligations.SafePointLaw : Prop :=
  ∀ (i : Instr) (s t : State), exec i s = .next t →
    (s.seq = .savePending → t.lastId = if i = .saveCommit then s.candidate else s.lastId) ∧
    (i = .saveBegin → t.lastId = s.lastId) ∧ (∀ a, i = .saveAbort a → t.lastId = s.lastId)

/-- 43_id_sequencer.md R147, R156: after a successful SAVE_BEGIN, an abort leaves LAST_ID as before the save and the
next SAVE_BEGIN computes the same candidate again; a commit returns exactly one more than the LAST_ID before. -/
def Obligations.SavesAreMonotoneAndRollBack : Prop :=
  ∀ s t : State, exec .saveBegin s = .next t → t.result = .ok →
    (∀ (a : Byte) (u : State), a.toNat ≤ 1 → exec (.saveAbort a) t = .next u →
      u.lastId = s.lastId ∧
      ∀ v, exec .saveBegin u = .next v → v.result = .ok ∧ v.candidate = t.candidate ∧ v.seq = .savePending) ∧
    (∀ u, exec .saveCommit t = .next u →
      u.lastId.toNat = s.lastId.toNat + 1 ∧ u.resultId = u.lastId ∧ u.seq = .idle)

/-- 43_id_sequencer.md R158, R159: DELETE_BEGIN fails with BAD_STATE, NOT_INIT or INVALID_IDENTIFIER (identifier 0) in
that order, changing RESULT alone; else DEL_ID takes the identifier, whatever LAST_ID is, and SEQ = DELETE_REMOVE. -/
def Obligations.DeleteBeginRecordsIdentifier : Prop :=
  ∀ (b : Half) (s : State),
    (s.seq ≠ .idle → exec (.deleteBegin b) s = .next { s with result := .badState }) ∧
    (s.seq = .idle → s.inited = false → exec (.deleteBegin b) s = .next { s with result := .notInit }) ∧
    (s.seq = .idle → s.inited = true → b.toNat = 0 →
      exec (.deleteBegin b) s = .next { s with result := .invalidIdentifier }) ∧
    (s.seq = .idle → s.inited = true → 1 ≤ b.toNat →
      exec (.deleteBegin b) s = .next { s with delId := b, seq := .deleteRemove, result := .ok })

/-- 43_id_sequencer.md R160 to R164: DELETE_REMOVED, every outcome, with nothing else changed. The scanning clauses
suppose DEL_ID >= 1, which R158 gives (it is part of `SequencerInv`). -/
def Obligations.DeleteRemovedEndsOrStartsScan : Prop :=
  ∀ (a : Byte) (s : State),
    (s.seq ≠ .deleteRemove → exec (.deleteRemoved a) s = .next { s with result := .badState }) ∧
    (s.seq = .deleteRemove → 1 < a.toNat → exec (.deleteRemoved a) s = .next { s with result := .badArg }) ∧
    (s.seq = .deleteRemove → a.toNat = 0 →
      exec (.deleteRemoved a) s = .next { s with seq := .idle, result := .deleteFailed }) ∧
    (s.seq = .deleteRemove → a.toNat = 1 → s.delId ≠ s.lastId →
      exec (.deleteRemoved a) s = .next { s with seq := .idle, result := .ok }) ∧
    (s.seq = .deleteRemove → a.toNat = 1 → s.delId = s.lastId → s.lastId.toNat = 1 →
      exec (.deleteRemoved a) s = .next { s with lastId := 0, seq := .idle, result := .ok }) ∧
    (s.seq = .deleteRemove → a.toNat = 1 → s.delId = s.lastId → 2 ≤ s.lastId.toNat →
      exec (.deleteRemoved a) s = .next { s with
        probeId := BitVec.ofNat 16 (s.lastId.toNat - 1), seq := .deleteProbe, result := .ok })

/-- 43_id_sequencer.md R165 to R167: PROBE_RESULT, every outcome, with nothing else changed. The absent clauses
suppose PROBE_ID >= 1, which 10_state.md R34 gives (it is part of `SequencerInv`). -/
def Obligations.ProbeResultMovesCursor : Prop :=
  ∀ (a : Byte) (s : State),
    (s.seq ≠ .deleteProbe → exec (.probeResult a) s = .next { s with result := .badState }) ∧
    (s.seq = .deleteProbe → 1 < a.toNat → exec (.probeResult a) s = .next { s with result := .badArg }) ∧
    (s.seq = .deleteProbe → a.toNat = 1 →
      exec (.probeResult a) s = .next { s with lastId := s.probeId, seq := .idle, result := .ok }) ∧
    (s.seq = .deleteProbe → a.toNat = 0 → s.probeId.toNat = 1 →
      exec (.probeResult a) s = .next { s with lastId := 0, seq := .idle, result := .ok }) ∧
    (s.seq = .deleteProbe → a.toNat = 0 → 2 ≤ s.probeId.toNat →
      exec (.probeResult a) s = .next { s with probeId := BitVec.ofNat 16 (s.probeId.toNat - 1), result := .ok })

/-- 43_id_sequencer.md R170: LATEST fails with BAD_STATE, NOT_INIT or NOT_FOUND in that order, changing RESULT alone;
else RESULT_ID = LAST_ID. -/
def Obligations.LatestReturnsLastId : Prop :=
  ∀ s : State,
    (s.seq ≠ .idle → exec .latest s = .next { s with result := .badState }) ∧
    (s.seq = .idle → s.inited = false → exec .latest s = .next { s with result := .notInit }) ∧
    (s.seq = .idle → s.inited = true → s.lastId.toNat = 0 → exec .latest s = .next { s with result := .notFound }) ∧
    (s.seq = .idle → s.inited = true → 1 ≤ s.lastId.toNat →
      exec .latest s = .next { s with resultId := s.lastId, result := .ok })

/-- 43_id_sequencer.md R136, R152: a sequencer command in any SEQ state but the one it requires fails with BAD_STATE,
before any other check, and changes nothing else. -/
def Obligations.WrongSeqStateIsBadState : Prop :=
  ∀ (i : Instr) (q : SeqState) (s : State), requiredSeq i = some q → s.seq ≠ q →
    exec i s = .next { s with result := .badState }

/-- 43_id_sequencer.md R137: at any step SEQ becomes IDLE by a reset, what the transition table says by a command,
and stays as it is otherwise (an illegal command word and every other access included); from states that keep what
R136, R158 and 10_state.md R34 say of the identifier registers. -/
def Obligations.SeqFollowsTransitionTable : Prop :=
  ∀ s t : State, SequencerInv s → step s = .next t →
    t.seq =
      if nextIsReset s = true then .idle
      else
        match nextCommand s with
        | some i => seqAfter i s
        | none => s.seq

/-- 43_id_sequencer.md R172: at any step LAST_ID changes only at INIT_END, SAVE_COMMIT, the end of a delete's removal
or scan (or a reset), and from a state that keeps the sequencer's invariant SAVE_COMMIT never commits 0. -/
def Obligations.LastIdChangesOnlyAtItsCommands : Prop :=
  ∀ s t : State, step s = .next t →
    (t.lastId ≠ s.lastId →
      nextCommand s = some .initEnd ∨ nextCommand s = some .saveCommit ∨
      (∃ a, nextCommand s = some (.deleteRemoved a) ∧ t.seq = .idle) ∨
      (∃ a, nextCommand s = some (.probeResult a) ∧ t.seq = .idle) ∨ nextIsReset s = true) ∧
    (SequencerInv s → nextCommand s = some .saveCommit → s.seq = .savePending → t.lastId ≠ 0)

/-- 43_id_sequencer.md R161, R162, R166, R167, R169: after the sample LAST_ID is removed, a host that answers every
probe by what storage holds completes the delete within LAST_ID - 1 PROBE_RESULT commands, and LAST_ID becomes the
highest stored identifier below the deleted one, or 0 if there is none. -/
def Obligations.BackwardScanFindsHighestSurvivor : Prop :=
  ∀ (stored : Half → Bool) (s : State), s.seq = .deleteRemove → s.delId = s.lastId → s.lastId ≠ 0 →
    ∃ u t, exec (.deleteRemoved 1) s = .next u ∧ answerProbes stored (s.lastId.toNat - 1) u = .next t ∧
      t.seq = .idle ∧ t.result = .ok ∧ t.lastId.toNat < s.lastId.toNat ∧
      (t.lastId ≠ 0 → stored t.lastId = true) ∧
      ∀ j : Half, t.lastId.toNat < j.toNat → j.toNat < s.lastId.toNat → stored j = false

/-- 70_reset_and_hazards.md R217: while a sequence is pending, any number of events that hold neither a reset nor a
closing command of it (a command its state expects, INIT_FEED apart) leave SEQ as it is, and every sequencer command
that expects another state fails with BAD_STATE. -/
def Obligations.PendingSequenceStaysPending : Prop :=
  ∀ s : State, s.seq ≠ .idle →
    (∀ (n : Nat) (t : State),
      (∀ e ∈ s.inbox, eventIsReset e = false ∧
        ∀ i, eventCommand e = some i → requiredSeq i = some s.seq → ∃ b, i = .initFeed b) →
      Host.Core.run core n s = .next t → t.seq = s.seq) ∧
    (∀ (i : Instr) (q : SeqState), requiredSeq i = some q → q ≠ s.seq →
      exec i s = .next { s with result := .badState })

/-! ### The units and the command template -/

/-- 40_commands_common.md R88: NOP and the commands of the CRC unit and the frame codec neither read nor write any
register of the identifier sequencer: replacing those registers by any values changes nothing of what the command
does, and keeps the replacement. -/
def Obligations.CodecAndCrcIgnoreSequencer : Prop :=
  ∀ (i : Instr) (s t u : State), requiredSeq i = none → exec i s = .next t →
    exec i (withSequencerOf u s) = .next (withSequencerOf u t)

/-- 40_commands_common.md R88: the commands of the identifier sequencer neither read nor write any register, buffer or
output of the CRC unit and the frame codec. -/
def Obligations.SequencerIgnoresCodecAndCrc : Prop :=
  ∀ (i : Instr) (q : SeqState) (s t u : State), requiredSeq i = some q → exec i s = .next t →
    exec i (withCodecOf u s) = .next (withCodecOf u t)

/-- 42_frame_codec.md R111, R121, 10_state.md R27: TX_SEND and RX_DECODE neither read nor write the CRC register. -/
def Obligations.CodecNeverTouchesCrcRegister : Prop :=
  ∀ (i : Instr) (s t : State) (v : Half), (i = .txSend ∨ ∃ b, i = .rxDecode b) → exec i s = .next t →
    t.crc = s.crc ∧ exec i { s with crc := v } = .next { t with crc := v }

/-- 40_commands_common.md R85, 60_exceptions.md R175, R176: every command completes, with no fault and no refusal; one
that ends with the code of a failed check has changed RESULT and nothing else, and one that ends with ENCODE_ERROR,
WRITE_ERROR or DELETE_FAILED has SEQ = IDLE and LAST_ID unchanged. -/
def Obligations.CommandsCompleteAndFailedChecksChangeOnlyResult : Prop :=
  ∀ (i : Instr) (s : State), ∃ t, exec i s = .next t ∧
    (t.result ∈ [ResultCode.illegalCmd, .badState, .notInit, .badArg, .badLength, .payloadTooLarge, .noTransport,
        .invalidIdentifier, .notFound, .idExhausted] → t = { s with result := t.result }) ∧
    (t.result ∈ [ResultCode.encodeError, .writeError, .deleteFailed] →
      t = { s with seq := .idle, result := t.result })

/-- 10_state.md R39: no command but RX_DECODE changes any byte of any buffer, and RX_DECODE changes none of TXBUF or
RXBUF. -/
def Obligations.CommandsLeaveBuffersAlone : Prop :=
  ∀ (i : Instr) (s t : State), exec i s = .next t →
    ∀ (b : BufferId) (j : Nat), ((∀ n, i ≠ .rxDecode n) ∨ b ≠ .mbox) → bufByte b j t = bufByte b j s

/-! ### Host accesses -/

/-- 20_memory.md R52, R51: an access to an offset of the window that is not 32 bits wide or not aligned is a bus error
at BASE + offset; the step changes no state (it gives none) and executes no command. Every other access to the window
is performed. -/
def Obligations.BusErrorExactlyOnUndefinedAccess : Prop :=
  ∀ (s : State) (o : Offset) (width : AccessWidth) (op : AccessOp) (rest : List HostEvent),
    s.inbox = .access { addr := .window o, width := width, op := op } :: rest →
    (width ≠ .w32 ∨ o.toNat % 4 ≠ 0 → step s = .fault (.busError (Config.base + o.toNat))) ∧
    (width = .w32 → o.toNat % 4 = 0 → ∃ t, step s = .next t)

/-- 20_memory.md R50, R53: an access at bus address BASE + offset is the access at that offset of the window. That an
access at an address outside the window ends in a bus error is DEDUCED (entry 7, from 93_implementation_defined.md). -/
def Obligations.BusAddressesReachTheWindow : Prop :=
  ∀ (s : State) (width : AccessWidth) (op : AccessOp) (rest : List HostEvent),
    (∀ o : Offset,
      step { s with inbox := .access { addr := .absolute (Config.base + o.toNat), width := width, op := op } :: rest } =
      step { s with inbox := .access { addr := .window o, width := width, op := op } :: rest }) ∧
    (∀ a : Nat, a < Config.base ∨ Config.base + 0x4000 ≤ a →
      step { s with inbox := .access { addr := .absolute a, width := width, op := op } :: rest } =
        .fault (.busError a))

/-- 10_state.md R45, R15: an aligned 32-bit read changes no state of the block (the model's own inbox and bus answer
apart, entries 5 and 6) and returns the word of the register R15 places at the offset, 0 for CMD and for a reserved
offset. -/
def Obligations.ReadsChangeNothing : Prop :=
  ∀ (s : State) (o : Offset) (rest : List HostEvent),
    s.inbox = .access { addr := .window o, width := .w32, op := .read } :: rest → o.toNat % 4 = 0 →
    ∃ v, step s = .next { s with inbox := rest, response := .readData v } ∧
      (∀ p ∈ [((0x000 : Offset), Reg.ctrl), (0x004, .rxCfg), (0x00C, .status), (0x010, .crc), (0x014, .txHdr),
          (0x018, .txCrc), (0x01C, .rxCrc), (0x020, .lastId), (0x024, .candidate), (0x028, .delId), (0x02C, .probeId),
          (0x030, .scanMax), (0x034, .resultId), (0x038, .mboxInfo), (0x03C, .param)],
        o = p.1 → v = readReg p.2 s) ∧
      (o = 0x008 → v = 0) ∧
      (0x040 ≤ o.toNat → o.toNat < 0x1000 → v = 0)

/-- 10_state.md R16, R20, R21, R25, R26, R41: STATUS as read shows each field in its place, RESULT, SEQ and RX_RESULT by
the numbers of the code tables, IRQ as IRQ_EN and MBOX_FULL, and its reserved bits 15 and 31:20 read 0. -/
def Obligations.StatusWordShowsItsFields : Prop :=
  ∀ s : State,
    let w := readReg .status s
    (w.extractLsb' 0 8 =
      match s.result with
      | .ok => 0x00
      | .illegalCmd => 0x01
      | .badState => 0x02
      | .notInit => 0x03
      | .badArg => 0x04
      | .badLength => 0x05
      | .payloadTooLarge => 0x10
      | .noTransport => 0x11
      | .invalidIdentifier => 0x20
      | .notFound => 0x21
      | .idExhausted => 0x22
      | .encodeError => 0x23
      | .writeError => 0x24
      | .deleteFailed => 0x25) ∧
    (w.extractLsb' 8 3 =
      match s.seq with
      | .idle => 0
      | .initScan => 1
      | .savePending => 2
      | .deleteRemove => 3
      | .deleteProbe => 4) ∧
    w.getLsbD 11 = s.inited ∧ w.getLsbD 12 = s.mboxFull ∧ w.getLsbD 13 = s.mboxOverrun ∧
    w.getLsbD 14 = (s.irqEn && s.mboxFull) ∧ w.getLsbD 15 = false ∧
    (w.extractLsb' 16 4 =
      match s.rxResult with
      | .delivered => 0x0
      | .empty => 0x1
      | .frameTooShort => 0x2
      | .notAResponse => 0x3
      | .notAddressedToMe => 0x4
      | .checksumMismatch => 0x5
      | .noConsumer => 0x6
      | .mailboxBusy => 0x7
      | .none => 0xF) ∧
    w.extractLsb' 20 12 = 0#12

/-- 10_state.md R17, R18, R28, R30, R38, R31 (and R27, R29, R32 to R37 alike): every other register as read shows its
fields in their places, reserved bits 0. -/
def Obligations.RegisterWordsShowTheirFields : Prop :=
  ∀ s : State,
    (let w := readReg .ctrl s
     w.getLsbD 0 = s.sinkEn ∧ w.getLsbD 1 = s.consEn ∧ w.getLsbD 2 = s.irqEn ∧ w.extractLsb' 3 5 = 0#5 ∧
     w.extractLsb' 8 8 = s.consHandle ∧ w.extractLsb' 16 16 = 0#16) ∧
    (let w := readReg .rxCfg s
     w.extractLsb' 0 8 = s.rxAddr ∧ w.extractLsb' 8 8 = s.respOpc ∧ w.extractLsb' 16 16 = 0#16) ∧
    (let w := readReg .txHdr s
     w.extractLsb' 0 8 = s.txDest ∧ w.extractLsb' 8 8 = s.txOpc ∧ w.extractLsb' 16 16 = s.txLen) ∧
    (let w := readReg .rxCrc s
     w.extractLsb' 0 16 = s.rxCalc ∧ w.extractLsb' 16 16 = s.rxRecv) ∧
    (let w := readReg .mboxInfo s
     w.extractLsb' 0 16 = s.mboxLen ∧ w.extractLsb' 16 8 = s.mboxHandle ∧ w.extractLsb' 24 8 = 0#8) ∧
    ∀ p ∈ [(Reg.crc, s.crc), (.txCrc, s.txCrc), (.lastId, s.lastId), (.candidate, s.candidate), (.delId, s.delId),
        (.probeId, s.probeId), (.scanMax, s.scanMax), (.resultId, s.resultId), (.param, BitVec.ofNat 16 s.maxlen)],
      (readReg p.1 s).extractLsb' 0 16 = p.2 ∧ (readReg p.1 s).extractLsb' 16 16 = 0#16

/-- 10_state.md R43: a 32-bit write to a RW register sets every non-reserved field to the word's bits, ignores the
bits of reserved fields, which keep reading 0, and changes no other register or buffer and runs no command (inbox and
bus answer are the model's own, entries 5 and 6). -/
def Obligations.RegisterWritesSetTheirFields : Prop :=
  ∀ (s : State) (w : Word) (rest : List HostEvent),
    let wr := fun o : Offset =>
      { s with inbox := .access { addr := .window o, width := .w32, op := .write w } :: rest }
    let done := { s with inbox := rest, response := .writeDone }
    (∃ t, step (wr 0x000) = .next t ∧ readReg .ctrl t = w &&& 0x0000FF07 ∧
      t = { done with
        sinkEn := w.getLsbD 0, consEn := w.getLsbD 1, irqEn := w.getLsbD 2, consHandle := w.extractLsb' 8 8 }) ∧
    (∃ t, step (wr 0x004) = .next t ∧ readReg .rxCfg t = w &&& 0x0000FFFF ∧
      t = { done with rxAddr := w.extractLsb' 0 8, respOpc := w.extractLsb' 8 8 }) ∧
    (∃ t, step (wr 0x010) = .next t ∧ readReg .crc t = w &&& 0x0000FFFF ∧
      t = { done with crc := w.extractLsb' 0 16 }) ∧
    (∃ t, step (wr 0x014) = .next t ∧ readReg .txHdr t = w ∧
      t = { done with
        txDest := w.extractLsb' 0 8, txOpc := w.extractLsb' 8 8, txLen := w.extractLsb' 16 16 })

/-- 10_state.md R44: a 32-bit write to a RO register, to a reserved offset or to the MBOXBUF window changes no state
of the block (inbox and bus answer are the model's own, entries 5 and 6) and completes without a bus error. -/
def Obligations.ReadOnlyWritesAreIgnored : Prop :=
  ∀ (s : State) (o : Offset) (w : Word) (rest : List HostEvent),
    s.inbox = .access { addr := .window o, width := .w32, op := .write w } :: rest → o.toNat % 4 = 0 →
    (o.toNat = 0x00C ∨ (0x018 ≤ o.toNat ∧ o.toNat < 0x1000) ∨ 0x3000 ≤ o.toNat) →
    step s = .next { s with inbox := rest, response := .writeDone }

/-- 20_memory.md R55, with the sizes of 10_state.md R39 (TXBUF and MBOXBUF MAXLEN - 4 bytes, RXBUF MAXLEN): a write of
`w` at offset W + 4k of the TXBUF (W = 0x1000) or RXBUF (W = 0x2000) window sets bytes 4k to 4k+3 to w's bytes, bits
7:0 first, those that exist, and leaves every other byte of every buffer and every register; a read at W + 4k of any
buffer window (MBOXBUF at 0x3000) returns its bytes packed the same way, 0 for a byte that does not exist (inbox and
bus answer are the model's own, entries 5 and 6). -/
def Obligations.BufferWordsPackTheirBytes : Prop :=
  ∀ (s : State) (b : BufferId) (k : Nat) (w : Word) (rest : List HostEvent), k < 0x400 →
    let base := match b with
      | .tx => 0x1000
      | .rx => 0x2000
      | .mbox => 0x3000
    let size := match b with
      | .tx => s.maxlen - 4
      | .rx => s.maxlen
      | .mbox => s.maxlen - 4
    let acc := fun op : AccessOp =>
      { s with inbox := .access { addr := .window (BitVec.ofNat 14 (base + 4 * k)), width := .w32, op := op } :: rest }
    (b ≠ .mbox → ∃ t, step (acc (.write w)) = .next t ∧
      (∀ (b' : BufferId) (i : Nat), bufByte b' i t =
        if b' = b ∧ 4 * k ≤ i ∧ i < 4 * k + 4 ∧ i < size then w.extractLsb' (8 * (i - 4 * k)) 8
        else bufByte b' i s) ∧
      t = { s with inbox := rest, response := .writeDone, txbuf := t.txbuf, rxbuf := t.rxbuf }) ∧
    (∃ v : Word, step (acc .read) = .next { s with inbox := rest, response := .readData v } ∧
      ∀ j, j < 4 → v.extractLsb' (8 * j) 8 = if 4 * k + j < size then bufByte b (4 * k + j) s else 0)

/-- 20_memory.md R59: a write to a RW register or buffer word is idempotent: writing the same word twice leaves the
same state. -/
def Obligations.NonCommandWritesAreIdempotent : Prop :=
  ∀ (s t : State) (o : Offset) (w : Word), o ≠ 0x008 → o.toNat % 4 = 0 → writeWord o w s = .next t →
    writeWord o w t = .next t

/-- 10_state.md R46: an access that is no write to CMD never changes STATUS.RESULT. -/
def Obligations.OnlyCommandsChangeResult : Prop :=
  ∀ (s t : State) (a : HostAccess) (rest : List HostEvent),
    s.inbox = .access a :: rest → cmdWordOf (.access a) = none → step s = .next t → t.result = s.result

/-- 10_state.md R36, R40: no step changes MAXLEN; no step but a power cycle removes or reorders bytes of TX_OUT, and
only TX_SEND adds any. -/
def Obligations.ParamIsConstantAndTxOutAppendOnly : Prop :=
  ∀ s t : State, step s = .next t →
    t.maxlen = s.maxlen ∧
    (s.inbox.head? ≠ some .powerCycle →
      ∃ l, t.txOut = s.txOut ++ l ∧ (l ≠ [] → nextCommand s = some .txSend))

/-- 30_encoding.md R80, 20_memory.md R55, 10_state.md R39: a WRBUF line writes its bytes to indices 0 to n-1 of the
buffer and 0x00 to the rest of the last word, each where the buffer (TXBUF MAXLEN - 4 bytes, RXBUF MAXLEN) has the
byte, leaves every other byte of every buffer, and expands to as many writes as there are words. -/
def Obligations.WrbufWritesItsBytes : Prop :=
  ∀ (s : State) (b : BufferId) (bytes : List Byte), (HostLine.wrbuf b bytes).wellFormed = true →
    let n := (bytes.length + 3) / 4
    let size := match b with
      | .tx => s.maxlen - 4
      | .rx => s.maxlen
      | .mbox => s.maxlen - 4
    (expandLine (.wrbuf b bytes)).length = n ∧
    ∃ t, Host.Core.run core n { s with inbox := expandProgram [.wrbuf b bytes] } = .next t ∧ t.inbox = [] ∧
      ∀ (b' : BufferId) (i : Nat), bufByte b' i t =
        if b' = b ∧ i < 4 * n ∧ i < size then bytes.getD i 0 else bufByte b' i s

/-! ### Reset and invariants -/

/-- 70_reset_and_hazards.md R200: a reset, alone or during an access, leaves every register at its reset value, MAXLEN
and TX_OUT as they were, and the interrupt output 0; the access is not performed. That every buffer byte that exists
reads the free draw of the new reset (R201) and the events still to come stay is the model's form (entries 3, 5, 6,
8). -/
def Obligations.ResetEstablishesResetState : Prop :=
  ∀ (s : State) (d : Option HostAccess) (rest : List HostEvent), s.inbox = .reset d :: rest →
    ∃ t, step s = .next t ∧
      t = { State.reset with
        maxlen := s.maxlen, txOut := s.txOut, resetCount := s.resetCount + 1, inbox := rest } ∧
      readReg .ctrl t = 0x00000000 ∧ readReg .rxCfg t = 0x00000000 ∧ readReg .status t = 0x000F0000 ∧
      readReg .crc t = 0x0000FFFF ∧ irqOut t = false ∧
      (∀ r, r ∈ [Reg.txHdr, .txCrc, .rxCrc, .lastId, .candidate, .delId, .probeId, .scanMax, .resultId, .mboxInfo] →
        readReg r t = 0x00000000) ∧
      ∀ (b : BufferId) (i : Nat),
        let size := match b with
          | .tx => s.maxlen - 4
          | .rx => s.maxlen
          | .mbox => s.maxlen - 4
        bufByte b i t = if i < size then Config.bufferDraw (s.resetCount + 1) b i else 0

/-- 70_reset_and_hazards.md R204: a power cycle is a reset with TX_OUT empty. -/
def Obligations.PowerCycleIsResetWithEmptyTxOut : Prop :=
  ∀ (s : State) (rest : List HostEvent), s.inbox = .powerCycle :: rest →
    ∃ t, step { s with inbox := .reset none :: rest } = .next t ∧ step s = .next { t with txOut := [] }

/-- The state after reset keeps the block's invariant (`Inv`, Safety.lean): 00_scope.md R5, 10_state.md R34, R39,
42_frame_codec.md R124, 43_id_sequencer.md R136. -/
def Obligations.ResetStateKeepsInvariant : Prop := Inv State.reset

/-- Every step keeps the block's invariant (`Inv`, Safety.lean): MAXLEN within its bounds, the buffers canonical and
within their capacities, a pending save's candidate LAST_ID + 1 and never 0, a scan's cursor below LAST_ID and never
0, no sequence but an init scan before the first INIT_END, an overrun only while the mailbox is full. -/
def Obligations.EveryStepKeepsInvariant : Prop :=
  ∀ s t : State, Inv s → step s = .next t → Inv t

/-- From a state that keeps the invariant, a run whose events raise no bus error never stops: it gives a next state
that keeps the invariant, for any number of steps (60_exceptions.md R177, 40_commands_common.md R85). -/
def Obligations.BusSafeRunsNeverStop : Prop :=
  ∀ (s : State) (n : Nat), Inv s → busSafe s = true → ∃ t, Host.Core.run core n s = .next t ∧ Inv t
end

