-- ==== Sys2Proof/Laws/State.lean ====
section
/-! SUPPORT. The small lemmas of the record updates: one for each field a named update leaves or sets. -/

namespace Sys2Proof.Machine

section
variable (s : State) (c : ResultCode) (r : RxResult) (f : List Byte) (b : BufferId) (m : Memory)

/-! ### `State.setResult` -/

@[simp] theorem State.setResult_sinkEn : (s.setResult c).sinkEn = s.sinkEn := rfl
@[simp] theorem State.setResult_consEn : (s.setResult c).consEn = s.consEn := rfl
@[simp] theorem State.setResult_irqEn : (s.setResult c).irqEn = s.irqEn := rfl
@[simp] theorem State.setResult_consHandle : (s.setResult c).consHandle = s.consHandle := rfl
@[simp] theorem State.setResult_rxAddr : (s.setResult c).rxAddr = s.rxAddr := rfl
@[simp] theorem State.setResult_respOpc : (s.setResult c).respOpc = s.respOpc := rfl
@[simp] theorem State.setResult_result : (s.setResult c).result = c := rfl
@[simp] theorem State.setResult_seq : (s.setResult c).seq = s.seq := rfl
@[simp] theorem State.setResult_inited : (s.setResult c).inited = s.inited := rfl
@[simp] theorem State.setResult_mboxFull : (s.setResult c).mboxFull = s.mboxFull := rfl
@[simp] theorem State.setResult_mboxOverrun : (s.setResult c).mboxOverrun = s.mboxOverrun := rfl
@[simp] theorem State.setResult_rxResult : (s.setResult c).rxResult = s.rxResult := rfl
@[simp] theorem State.setResult_crc : (s.setResult c).crc = s.crc := rfl
@[simp] theorem State.setResult_txDest : (s.setResult c).txDest = s.txDest := rfl
@[simp] theorem State.setResult_txOpc : (s.setResult c).txOpc = s.txOpc := rfl
@[simp] theorem State.setResult_txLen : (s.setResult c).txLen = s.txLen := rfl
@[simp] theorem State.setResult_txCrc : (s.setResult c).txCrc = s.txCrc := rfl
@[simp] theorem State.setResult_rxCalc : (s.setResult c).rxCalc = s.rxCalc := rfl
@[simp] theorem State.setResult_rxRecv : (s.setResult c).rxRecv = s.rxRecv := rfl
@[simp] theorem State.setResult_lastId : (s.setResult c).lastId = s.lastId := rfl
@[simp] theorem State.setResult_candidate : (s.setResult c).candidate = s.candidate := rfl
@[simp] theorem State.setResult_delId : (s.setResult c).delId = s.delId := rfl
@[simp] theorem State.setResult_probeId : (s.setResult c).probeId = s.probeId := rfl
@[simp] theorem State.setResult_scanMax : (s.setResult c).scanMax = s.scanMax := rfl
@[simp] theorem State.setResult_resultId : (s.setResult c).resultId = s.resultId := rfl
@[simp] theorem State.setResult_mboxLen : (s.setResult c).mboxLen = s.mboxLen := rfl
@[simp] theorem State.setResult_mboxHandle : (s.setResult c).mboxHandle = s.mboxHandle := rfl
@[simp] theorem State.setResult_maxlen : (s.setResult c).maxlen = s.maxlen := rfl
@[simp] theorem State.setResult_txbuf : (s.setResult c).txbuf = s.txbuf := rfl
@[simp] theorem State.setResult_rxbuf : (s.setResult c).rxbuf = s.rxbuf := rfl
@[simp] theorem State.setResult_mboxbuf : (s.setResult c).mboxbuf = s.mboxbuf := rfl
@[simp] theorem State.setResult_txOut : (s.setResult c).txOut = s.txOut := rfl
@[simp] theorem State.setResult_resetCount : (s.setResult c).resetCount = s.resetCount := rfl
@[simp] theorem State.setResult_inbox : (s.setResult c).inbox = s.inbox := rfl
@[simp] theorem State.setResult_response : (s.setResult c).response = s.response := rfl

/-! ### `State.setRxResult` -/

@[simp] theorem State.setRxResult_sinkEn : (s.setRxResult r).sinkEn = s.sinkEn := rfl
@[simp] theorem State.setRxResult_consEn : (s.setRxResult r).consEn = s.consEn := rfl
@[simp] theorem State.setRxResult_irqEn : (s.setRxResult r).irqEn = s.irqEn := rfl
@[simp] theorem State.setRxResult_consHandle : (s.setRxResult r).consHandle = s.consHandle := rfl
@[simp] theorem State.setRxResult_rxAddr : (s.setRxResult r).rxAddr = s.rxAddr := rfl
@[simp] theorem State.setRxResult_respOpc : (s.setRxResult r).respOpc = s.respOpc := rfl
@[simp] theorem State.setRxResult_result : (s.setRxResult r).result = s.result := rfl
@[simp] theorem State.setRxResult_seq : (s.setRxResult r).seq = s.seq := rfl
@[simp] theorem State.setRxResult_inited : (s.setRxResult r).inited = s.inited := rfl
@[simp] theorem State.setRxResult_mboxFull : (s.setRxResult r).mboxFull = s.mboxFull := rfl
@[simp] theorem State.setRxResult_mboxOverrun : (s.setRxResult r).mboxOverrun = s.mboxOverrun := rfl
@[simp] theorem State.setRxResult_rxResult : (s.setRxResult r).rxResult = r := rfl
@[simp] theorem State.setRxResult_crc : (s.setRxResult r).crc = s.crc := rfl
@[simp] theorem State.setRxResult_txDest : (s.setRxResult r).txDest = s.txDest := rfl
@[simp] theorem State.setRxResult_txOpc : (s.setRxResult r).txOpc = s.txOpc := rfl
@[simp] theorem State.setRxResult_txLen : (s.setRxResult r).txLen = s.txLen := rfl
@[simp] theorem State.setRxResult_txCrc : (s.setRxResult r).txCrc = s.txCrc := rfl
@[simp] theorem State.setRxResult_rxCalc : (s.setRxResult r).rxCalc = s.rxCalc := rfl
@[simp] theorem State.setRxResult_rxRecv : (s.setRxResult r).rxRecv = s.rxRecv := rfl
@[simp] theorem State.setRxResult_lastId : (s.setRxResult r).lastId = s.lastId := rfl
@[simp] theorem State.setRxResult_candidate : (s.setRxResult r).candidate = s.candidate := rfl
@[simp] theorem State.setRxResult_delId : (s.setRxResult r).delId = s.delId := rfl
@[simp] theorem State.setRxResult_probeId : (s.setRxResult r).probeId = s.probeId := rfl
@[simp] theorem State.setRxResult_scanMax : (s.setRxResult r).scanMax = s.scanMax := rfl
@[simp] theorem State.setRxResult_resultId : (s.setRxResult r).resultId = s.resultId := rfl
@[simp] theorem State.setRxResult_mboxLen : (s.setRxResult r).mboxLen = s.mboxLen := rfl
@[simp] theorem State.setRxResult_mboxHandle : (s.setRxResult r).mboxHandle = s.mboxHandle := rfl
@[simp] theorem State.setRxResult_maxlen : (s.setRxResult r).maxlen = s.maxlen := rfl
@[simp] theorem State.setRxResult_txbuf : (s.setRxResult r).txbuf = s.txbuf := rfl
@[simp] theorem State.setRxResult_rxbuf : (s.setRxResult r).rxbuf = s.rxbuf := rfl
@[simp] theorem State.setRxResult_mboxbuf : (s.setRxResult r).mboxbuf = s.mboxbuf := rfl
@[simp] theorem State.setRxResult_txOut : (s.setRxResult r).txOut = s.txOut := rfl
@[simp] theorem State.setRxResult_resetCount : (s.setRxResult r).resetCount = s.resetCount := rfl
@[simp] theorem State.setRxResult_inbox : (s.setRxResult r).inbox = s.inbox := rfl
@[simp] theorem State.setRxResult_response : (s.setRxResult r).response = s.response := rfl

/-! ### `emitBytes` -/

@[simp] theorem emitBytes_sinkEn : (emitBytes f s).sinkEn = s.sinkEn := rfl
@[simp] theorem emitBytes_consEn : (emitBytes f s).consEn = s.consEn := rfl
@[simp] theorem emitBytes_irqEn : (emitBytes f s).irqEn = s.irqEn := rfl
@[simp] theorem emitBytes_consHandle : (emitBytes f s).consHandle = s.consHandle := rfl
@[simp] theorem emitBytes_rxAddr : (emitBytes f s).rxAddr = s.rxAddr := rfl
@[simp] theorem emitBytes_respOpc : (emitBytes f s).respOpc = s.respOpc := rfl
@[simp] theorem emitBytes_result : (emitBytes f s).result = s.result := rfl
@[simp] theorem emitBytes_seq : (emitBytes f s).seq = s.seq := rfl
@[simp] theorem emitBytes_inited : (emitBytes f s).inited = s.inited := rfl
@[simp] theorem emitBytes_mboxFull : (emitBytes f s).mboxFull = s.mboxFull := rfl
@[simp] theorem emitBytes_mboxOverrun : (emitBytes f s).mboxOverrun = s.mboxOverrun := rfl
@[simp] theorem emitBytes_rxResult : (emitBytes f s).rxResult = s.rxResult := rfl
@[simp] theorem emitBytes_crc : (emitBytes f s).crc = s.crc := rfl
@[simp] theorem emitBytes_txDest : (emitBytes f s).txDest = s.txDest := rfl
@[simp] theorem emitBytes_txOpc : (emitBytes f s).txOpc = s.txOpc := rfl
@[simp] theorem emitBytes_txLen : (emitBytes f s).txLen = s.txLen := rfl
@[simp] theorem emitBytes_txCrc : (emitBytes f s).txCrc = s.txCrc := rfl
@[simp] theorem emitBytes_rxCalc : (emitBytes f s).rxCalc = s.rxCalc := rfl
@[simp] theorem emitBytes_rxRecv : (emitBytes f s).rxRecv = s.rxRecv := rfl
@[simp] theorem emitBytes_lastId : (emitBytes f s).lastId = s.lastId := rfl
@[simp] theorem emitBytes_candidate : (emitBytes f s).candidate = s.candidate := rfl
@[simp] theorem emitBytes_delId : (emitBytes f s).delId = s.delId := rfl
@[simp] theorem emitBytes_probeId : (emitBytes f s).probeId = s.probeId := rfl
@[simp] theorem emitBytes_scanMax : (emitBytes f s).scanMax = s.scanMax := rfl
@[simp] theorem emitBytes_resultId : (emitBytes f s).resultId = s.resultId := rfl
@[simp] theorem emitBytes_mboxLen : (emitBytes f s).mboxLen = s.mboxLen := rfl
@[simp] theorem emitBytes_mboxHandle : (emitBytes f s).mboxHandle = s.mboxHandle := rfl
@[simp] theorem emitBytes_maxlen : (emitBytes f s).maxlen = s.maxlen := rfl
@[simp] theorem emitBytes_txbuf : (emitBytes f s).txbuf = s.txbuf := rfl
@[simp] theorem emitBytes_rxbuf : (emitBytes f s).rxbuf = s.rxbuf := rfl
@[simp] theorem emitBytes_mboxbuf : (emitBytes f s).mboxbuf = s.mboxbuf := rfl
@[simp] theorem emitBytes_txOut : (emitBytes f s).txOut = s.txOut ++ f := rfl
@[simp] theorem emitBytes_resetCount : (emitBytes f s).resetCount = s.resetCount := rfl
@[simp] theorem emitBytes_inbox : (emitBytes f s).inbox = s.inbox := rfl
@[simp] theorem emitBytes_response : (emitBytes f s).response = s.response := rfl

/-! ### `State.setStored` -/

@[simp] theorem State.setStored_sinkEn : (s.setStored b m).sinkEn = s.sinkEn := by cases b <;> rfl
@[simp] theorem State.setStored_consEn : (s.setStored b m).consEn = s.consEn := by cases b <;> rfl
@[simp] theorem State.setStored_irqEn : (s.setStored b m).irqEn = s.irqEn := by cases b <;> rfl
@[simp] theorem State.setStored_consHandle : (s.setStored b m).consHandle = s.consHandle := by cases b <;> rfl
@[simp] theorem State.setStored_rxAddr : (s.setStored b m).rxAddr = s.rxAddr := by cases b <;> rfl
@[simp] theorem State.setStored_respOpc : (s.setStored b m).respOpc = s.respOpc := by cases b <;> rfl
@[simp] theorem State.setStored_result : (s.setStored b m).result = s.result := by cases b <;> rfl
@[simp] theorem State.setStored_seq : (s.setStored b m).seq = s.seq := by cases b <;> rfl
@[simp] theorem State.setStored_inited : (s.setStored b m).inited = s.inited := by cases b <;> rfl
@[simp] theorem State.setStored_mboxFull : (s.setStored b m).mboxFull = s.mboxFull := by cases b <;> rfl
@[simp] theorem State.setStored_mboxOverrun : (s.setStored b m).mboxOverrun = s.mboxOverrun := by cases b <;> rfl
@[simp] theorem State.setStored_rxResult : (s.setStored b m).rxResult = s.rxResult := by cases b <;> rfl
@[simp] theorem State.setStored_crc : (s.setStored b m).crc = s.crc := by cases b <;> rfl
@[simp] theorem State.setStored_txDest : (s.setStored b m).txDest = s.txDest := by cases b <;> rfl
@[simp] theorem State.setStored_txOpc : (s.setStored b m).txOpc = s.txOpc := by cases b <;> rfl
@[simp] theorem State.setStored_txLen : (s.setStored b m).txLen = s.txLen := by cases b <;> rfl
@[simp] theorem State.setStored_txCrc : (s.setStored b m).txCrc = s.txCrc := by cases b <;> rfl
@[simp] theorem State.setStored_rxCalc : (s.setStored b m).rxCalc = s.rxCalc := by cases b <;> rfl
@[simp] theorem State.setStored_rxRecv : (s.setStored b m).rxRecv = s.rxRecv := by cases b <;> rfl
@[simp] theorem State.setStored_lastId : (s.setStored b m).lastId = s.lastId := by cases b <;> rfl
@[simp] theorem State.setStored_candidate : (s.setStored b m).candidate = s.candidate := by cases b <;> rfl
@[simp] theorem State.setStored_delId : (s.setStored b m).delId = s.delId := by cases b <;> rfl
@[simp] theorem State.setStored_probeId : (s.setStored b m).probeId = s.probeId := by cases b <;> rfl
@[simp] theorem State.setStored_scanMax : (s.setStored b m).scanMax = s.scanMax := by cases b <;> rfl
@[simp] theorem State.setStored_resultId : (s.setStored b m).resultId = s.resultId := by cases b <;> rfl
@[simp] theorem State.setStored_mboxLen : (s.setStored b m).mboxLen = s.mboxLen := by cases b <;> rfl
@[simp] theorem State.setStored_mboxHandle : (s.setStored b m).mboxHandle = s.mboxHandle := by cases b <;> rfl
@[simp] theorem State.setStored_maxlen : (s.setStored b m).maxlen = s.maxlen := by cases b <;> rfl
@[simp] theorem State.setStored_txOut : (s.setStored b m).txOut = s.txOut := by cases b <;> rfl
@[simp] theorem State.setStored_resetCount : (s.setStored b m).resetCount = s.resetCount := by cases b <;> rfl
@[simp] theorem State.setStored_inbox : (s.setStored b m).inbox = s.inbox := by cases b <;> rfl
@[simp] theorem State.setStored_response : (s.setStored b m).response = s.response := by cases b <;> rfl

@[simp] theorem State.setStored_stored_same : (s.setStored b m).stored b = m := by cases b <;> rfl
theorem State.setStored_stored_ne (b' : BufferId) (h : b' ≠ b) : (s.setStored b m).stored b' = s.stored b' := by
  cases b <;> cases b' <;> first | rfl | exact absurd rfl h

@[simp] theorem State.setStored_capacity (b' : BufferId) : (s.setStored b m).capacity b' = s.capacity b' := by
  cases b <;> rfl
@[simp] theorem State.setResult_capacity (b' : BufferId) : (s.setResult c).capacity b' = s.capacity b' := rfl
@[simp] theorem State.setResult_stored (b' : BufferId) : (s.setResult c).stored b' = s.stored b' := by
  cases b' <;> rfl

end

end Sys2Proof.Machine
end

