-- ==== Sys2Proof/Laws/Memory.lean ====
section
/-! SUPPORT. The bytes of the buffers: read after write, what a write leaves alone, and that every memory operation
keeps the canonical form. -/

namespace Sys2Proof.Machine

/-! ### One buffer's stored bytes -/

theorem Memory.lookup_store_same (m : Memory) (i : Nat) (v : Byte) : (Memory.store m i v).lookup i = some v := by
  induction m with
  | nil => simp [Memory.store, Memory.lookup]
  | cons c m ih =>
    obtain ⟨j, x⟩ := c
    simp only [Memory.store]
    split
    · simp [Memory.lookup]
    · split
      · simp [Memory.lookup]
      · next h1 h2 => simp [Memory.lookup, h1, h2, ih]

/-- Looking up below every listed index finds nothing. -/
theorem Memory.lookup_below (m : Memory) (cap lo i : Nat) (h : Memory.risingFrom cap lo m = true) (hi : i < lo) :
    m.lookup i = none := by
  cases m with
  | nil => rfl
  | cons c m =>
    obtain ⟨j, x⟩ := c
    simp only [Memory.risingFrom, Bool.and_eq_true, decide_eq_true_eq] at h
    rw [Memory.lookup, if_neg (by omega), if_pos (by omega)]

theorem Memory.lookup_store_ne (m : Memory) (i k : Nat) (v : Byte) (hk : k ≠ i) :
    (Memory.store m i v).lookup k = m.lookup k := by
  induction m with
  | nil => simp [Memory.store, Memory.lookup, hk]
  | cons c m ih =>
    obtain ⟨j, x⟩ := c
    simp only [Memory.store]
    split
    · next e => subst e; simp [Memory.lookup, hk]
    · split
      · next e1 e2 =>
        simp only [Memory.lookup, if_neg hk]
        split
        · next e3 => rw [if_neg (by omega), if_pos (by omega)]
        · rfl
      · next e1 e2 => simp only [Memory.lookup, ih]

theorem Memory.risingFrom_store (m : Memory) (cap lo i : Nat) (v : Byte) (h : Memory.risingFrom cap lo m = true)
    (hlo : lo ≤ i) (hi : i < cap) : Memory.risingFrom cap lo (Memory.store m i v) = true := by
  induction m generalizing lo with
  | nil => simp [Memory.store, Memory.risingFrom, hlo, hi]
  | cons c m ih =>
    obtain ⟨j, x⟩ := c
    simp only [Memory.risingFrom, Bool.and_eq_true, decide_eq_true_eq] at h
    simp only [Memory.store]
    split
    · next e => subst e; simp [Memory.risingFrom, h]
    · split
      · next e1 e2 =>
        simp only [Memory.risingFrom, Bool.and_eq_true, decide_eq_true_eq]
        exact ⟨⟨hlo, hi⟩, ⟨by omega, h.1.2⟩, h.2⟩
      · next e1 e2 =>
        simp only [Memory.risingFrom, Bool.and_eq_true, decide_eq_true_eq]
        exact ⟨h.1, ih (j + 1) h.2 (by omega)⟩

/-- Storing a byte below the capacity keeps the canonical form. -/
theorem Memory.wf_store (cap : Nat) (m : Memory) (i : Nat) (v : Byte) (h : Memory.wf cap m = true) (hi : i < cap) :
    Memory.wf cap (Memory.store m i v) = true :=
  Memory.risingFrom_store m cap 0 i v h (Nat.zero_le i) hi

/-- The canonical form is one form: two canonical lists that list the same bytes are equal. -/
theorem Memory.ext_risingFrom (cap lo : Nat) (m n : Memory) (hm : Memory.risingFrom cap lo m = true)
    (hn : Memory.risingFrom cap lo n = true) (h : ∀ i, m.lookup i = n.lookup i) : m = n := by
  induction m generalizing lo n with
  | nil =>
    cases n with
    | nil => rfl
    | cons c n => simpa [Memory.lookup] using h c.1
  | cons c m ih =>
    obtain ⟨j, x⟩ := c
    cases n with
    | nil => simpa [Memory.lookup] using h j
    | cons d n =>
      obtain ⟨k, y⟩ := d
      simp only [Memory.risingFrom, Bool.and_eq_true, decide_eq_true_eq] at hm hn
      have hjk : j = k := by
        rcases Nat.lt_trichotomy j k with e | e | e
        · simpa [Memory.lookup, e, Nat.ne_of_lt e] using h j
        · exact e
        · simpa [Memory.lookup, e, Nat.ne_of_lt e] using h k
      subst hjk
      have hx : x = y := by simpa [Memory.lookup] using h j
      subst hx
      congr 1
      refine ih (j + 1) n hm.2 hn.2 fun i => ?_
      rcases Nat.lt_or_ge i (j + 1) with e | e
      · rw [Memory.lookup_below m cap (j + 1) i hm.2 e, Memory.lookup_below n cap (j + 1) i hn.2 e]
      · have := h i
        rwa [Memory.lookup, if_neg (by omega), if_neg (by omega), Memory.lookup, if_neg (by omega),
          if_neg (by omega)] at this

theorem Memory.ext_wf (cap : Nat) (m n : Memory) (hm : Memory.wf cap m = true) (hn : Memory.wf cap n = true)
    (h : ∀ i, m.lookup i = n.lookup i) : m = n :=
  Memory.ext_risingFrom cap 0 m n hm hn h

/-- Right after reset every buffer is in canonical form. -/
theorem reset_wf (b : BufferId) : Memory.wf (State.reset.capacity b) (State.reset.stored b) = true := by
  cases b <;> rfl

/-! ### The bytes of the buffers -/

@[simp] theorem writeByte_capacity (b b' : BufferId) (i : Nat) (v : Byte) (s : State) :
    (writeByte b i v s).capacity b' = s.capacity b' := by
  unfold writeByte; split <;> simp

@[simp] theorem writeBytes_capacity (b b' : BufferId) (i : Nat) (vs : List Byte) (s : State) :
    (writeBytes b i vs s).capacity b' = s.capacity b' := by
  induction vs generalizing i s with
  | nil => rfl
  | cons v vs ih => simp [writeBytes, ih]

/-- Everything a write of buffer bytes can do: some buffer's stored bytes are replaced, and nothing else. -/
theorem writeBytes_eq_setStored (b : BufferId) (i : Nat) (vs : List Byte) (s : State) :
    writeBytes b i vs s = s.setStored b ((writeBytes b i vs s).stored b) := by
  induction vs generalizing i s with
  | nil => cases b <;> rfl
  | cons v vs ih =>
    rw [writeBytes, ih]
    unfold writeByte
    split <;> cases b <;> rfl

theorem writeBytes_stored_ne (b b' : BufferId) (i : Nat) (vs : List Byte) (s : State) (h : b' ≠ b) :
    (writeBytes b i vs s).stored b' = s.stored b' := by
  rw [writeBytes_eq_setStored, State.setStored_stored_ne _ _ _ _ h]

theorem writeByte_wf (b b' : BufferId) (i : Nat) (v : Byte) (s : State)
    (h : Memory.wf (s.capacity b') (s.stored b') = true) :
    Memory.wf ((writeByte b i v s).capacity b') ((writeByte b i v s).stored b') = true := by
  unfold writeByte
  split
  · next hi =>
    rw [State.setStored_capacity]
    by_cases e : b' = b
    · subst e; rw [State.setStored_stored_same]; exact Memory.wf_store _ _ _ _ h hi
    · rw [State.setStored_stored_ne _ _ _ _ e]; exact h
  · exact h

/-- Every write of buffer bytes keeps the canonical form of every buffer. -/
theorem writeBytes_wf (b b' : BufferId) (i : Nat) (vs : List Byte) (s : State)
    (h : Memory.wf (s.capacity b') (s.stored b') = true) :
    Memory.wf ((writeBytes b i vs s).capacity b') ((writeBytes b i vs s).stored b') = true := by
  induction vs generalizing i s with
  | nil => exact h
  | cons v vs ih => exact ih (i + 1) _ (writeByte_wf b b' i v s h)

/-- Read after write: the byte written, where it exists. -/
theorem bufByte_writeByte_same (b : BufferId) (i : Nat) (v : Byte) (s : State) (hi : i < s.capacity b) :
    bufByte b i (writeByte b i v s) = v := by
  simp [bufByte, writeByte, hi, Memory.lookup_store_same]

/-- A write leaves every other byte alone. -/
theorem bufByte_writeByte_ne (b b' : BufferId) (i k : Nat) (v : Byte) (s : State) (hk : b' ≠ b ∨ k ≠ i) :
    bufByte b' k (writeByte b i v s) = bufByte b' k s := by
  unfold bufByte
  rw [writeByte_capacity]
  unfold writeByte
  split
  · split
    · by_cases e : b' = b
      · subst e
        rw [State.setStored_stored_same,
          Memory.lookup_store_ne _ _ _ _ (hk.resolve_left (fun n => n rfl)), State.unwritten, State.unwritten,
          State.setStored_resetCount]
      · rw [State.setStored_stored_ne _ _ _ _ e, State.unwritten, State.unwritten, State.setStored_resetCount]
    · rfl
  · rfl

/-- What consecutive writes leave in every byte of every buffer. -/
theorem bufByte_writeBytes (b b' : BufferId) (i k : Nat) (vs : List Byte) (s : State) :
    bufByte b' k (writeBytes b i vs s) =
      if b' = b ∧ i ≤ k ∧ k < i + vs.length ∧ k < s.capacity b then vs.getD (k - i) 0 else bufByte b' k s := by
  induction vs generalizing i s with
  | nil => rw [if_neg (by simp; omega)]; rfl
  | cons v vs ih =>
    rw [writeBytes, ih (i + 1) (writeByte b i v s)]
    simp only [writeByte_capacity, List.length_cons]
    by_cases hb : b' = b
    · subst hb
      by_cases hik : k = i
      · subst hik
        by_cases hc : k < s.capacity b'
        · rw [if_neg (by omega), if_pos ⟨rfl, by omega, by omega, hc⟩, bufByte_writeByte_same _ _ _ _ hc]; simp
        · rw [if_neg (by omega), if_neg (by omega)]
          simp [bufByte, hc]
      · rw [bufByte_writeByte_ne _ _ _ _ _ _ (.inr hik)]
        by_cases hr : i + 1 ≤ k ∧ k < i + 1 + vs.length ∧ k < s.capacity b'
        · rw [if_pos ⟨rfl, hr⟩, if_pos ⟨rfl, by omega, by omega, hr.2.2⟩]
          obtain ⟨d, rfl⟩ : ∃ d, k = i + 1 + d := ⟨k - (i + 1), by omega⟩
          rw [show i + 1 + d - (i + 1) = d by omega, show i + 1 + d - i = d + 1 by omega]; rfl
        · rw [if_neg (by tauto), if_neg (by omega)]
    · rw [if_neg (by tauto), if_neg (by tauto), bufByte_writeByte_ne _ _ _ _ _ _ (.inl hb)]

@[simp] theorem bufByte_setResult (b : BufferId) (i : Nat) (c : ResultCode) (s : State) :
    bufByte b i (s.setResult c) = bufByte b i s := by
  cases b <;> rfl

@[simp] theorem bufBytes_length (b : BufferId) (n : Nat) (s : State) : (bufBytes b n s).length = n := by
  simp [bufBytes]

theorem bufBytes_getD (b : BufferId) (n i : Nat) (s : State) (h : i < n) : (bufBytes b n s).getD i 0 = bufByte b i s := by
  simp [bufBytes, h]

/-- A byte that does not exist reads 0 (20_memory.md R55). -/
theorem bufByte_beyond (b : BufferId) (i : Nat) (s : State) (h : s.capacity b ≤ i) : bufByte b i s = 0 := by
  rw [bufByte, if_neg (by omega)]

end Sys2Proof.Machine
end

