-- ==== Sys2Proof/Laws/Command.lean ====
section
/-! SUPPORT. What the shared command template can do, said once (40_commands_common.md R85). -/

namespace Sys2Proof.Machine

variable {checks : List (Bool × ResultCode)} {writes : State → State} {success : ResultCode} {s t : State}

@[simp] theorem firstFailure_nil : firstFailure [] = none := rfl

@[simp] theorem firstFailure_cons (f : Bool) (c : ResultCode) (rest : List (Bool × ResultCode)) :
    firstFailure ((f, c) :: rest) = if f then some c else firstFailure rest := rfl

/-- No check of a list fails: the first passes and none of the rest fails. -/
theorem firstFailure_cons_none (f : Bool) (c : ResultCode) (rest : List (Bool × ResultCode)) :
    firstFailure ((f, c) :: rest) = none ↔ f = false ∧ firstFailure rest = none := by
  cases f <;> simp

/-- The first failing check is the head, or the head passes and it is the first failing one of the rest. -/
theorem firstFailure_cons_some (f : Bool) (c d : ResultCode) (rest : List (Bool × ResultCode)) :
    firstFailure ((f, c) :: rest) = some d ↔ f = true ∧ c = d ∨ f = false ∧ firstFailure rest = some d := by
  cases f <;> simp

/-- A failing check's code is one the list names. -/
theorem firstFailure_mem {c : ResultCode} (h : firstFailure checks = some c) : c ∈ checks.map Prod.snd := by
  induction checks with
  | nil => cases h
  | cons k rest ih =>
    obtain ⟨f, d⟩ := k
    cases f
    · exact List.mem_cons_of_mem _ (ih h)
    · simp only [firstFailure_cons, if_true, Option.some.injEq] at h
      simp [h]

theorem runCommand_pass (h : firstFailure checks = none) :
    runCommand checks writes success s = .next ((writes s).setResult success) := by
  simp [runCommand, h]

theorem runCommand_fail {c : ResultCode} (h : firstFailure checks = some c) :
    runCommand checks writes success s = .next (s.setResult c) := by
  simp [runCommand, h]

/-- Everything a command can do: its first failing check writes RESULT and nothing else, or all its writes happen. -/
theorem runCommand_cases (h : runCommand checks writes success s = .next t) :
    (∃ c, firstFailure checks = some c ∧ t = s.setResult c) ∨
    (firstFailure checks = none ∧ t = (writes s).setResult success) := by
  unfold runCommand at h
  split at h
  · next c hc => cases h; exact .inl ⟨c, hc, rfl⟩
  · next hn => cases h; exact .inr ⟨hn, rfl⟩

theorem runCommand_completes (checks : List (Bool × ResultCode)) (writes : State → State) (success : ResultCode)
    (s : State) : ∃ t, runCommand checks writes success s = .next t := by
  unfold runCommand; split <;> exact ⟨_, rfl⟩

end Sys2Proof.Machine
end

