-- ==== Sys2Proof/Laws/Access.lean ====
section
/-! SUPPORT. What one event of the host interface can do, said once. -/

namespace Sys2Proof.Machine

variable {s t : State} {rest : List HostEvent}

/-- With no event the block waits (70_reset_and_hazards.md R202). -/
theorem step_idle (h : s.inbox = []) : step s = .next s := by
  simp [step, nextEvent, h]

theorem step_event {e : HostEvent} (h : s.inbox = e :: rest) : step s = performEvent e { s with inbox := rest } := by
  simp [step, nextEvent, h]

/-- Everything a step can do: wait, an access, or a reset. -/
theorem step_cases (h : step s = .next t) :
    (s.inbox = [] ∧ t = s) ∨
    (∃ a rest, s.inbox = .access a :: rest ∧ performAccess a { s with inbox := rest } = .next t) ∨
    (∃ d rest, s.inbox = .reset d :: rest ∧ t = resetBlock { s with inbox := rest }) ∨
    (∃ rest, s.inbox = .powerCycle :: rest ∧ t = powerUp { s with inbox := rest }) := by
  unfold step nextEvent at h
  split at h
  · next hi => cases h; exact .inl ⟨hi, rfl⟩
  · next e rest hi =>
    cases e with
    | access a => exact .inr (.inl ⟨a, rest, hi, h⟩)
    | reset d => cases h; exact .inr (.inr (.inl ⟨d, rest, hi, rfl⟩))
    | powerCycle => cases h; exact .inr (.inr (.inr ⟨rest, hi, rfl⟩))

/-- A run of one more step is the step, then the rest of the run. -/
theorem run_of_step {u : State} (n : Nat) (h : step s = .next u) : Host.Core.run core (n + 1) s = Host.Core.run core n u := by
  have h' : core.step s = Host.Outcome.next u := h
  simp only [Host.Core.run, h']

/-- A run that gives a state took a first step that gave one. -/
theorem step_of_run {n : Nat} (h : Host.Core.run core (n + 1) s = .next t) :
    ∃ u, step s = .next u ∧ Host.Core.run core n u = .next t := by
  simp only [Host.Core.run] at h
  split at h
  · next u hu => exact ⟨u, hu, h⟩
  · cases h
  · cases h

/-- A performed aligned 32-bit write to an offset of the window. -/
theorem step_write {o : Offset} {w : Word}
    (h : s.inbox = .access { addr := .window o, width := .w32, op := .write w } :: rest) (ho : o.toNat % 4 = 0) :
    step s = writeWord o w { s with inbox := rest, response := .writeDone } := by
  simp [step_event h, performEvent, performAccess, windowOffset, accessible, ho]

/-- A performed aligned 32-bit read of an offset of the window, whatever the offset: the answer is read from the state as
it stands, and nothing of the block changes (20_memory.md R66). -/
theorem step_read {o : Offset} (h : s.inbox = .access { addr := .window o, width := .w32, op := .read } :: rest)
    (ho : o.toNat % 4 = 0) :
    step s = .next { s with inbox := rest, response := .readData (readWord o { s with inbox := rest }) } := by
  simp [step_event h, performEvent, performAccess, windowOffset, accessible, ho]

/-- A write of the word `w` to CMD. -/
theorem step_cmdWrite {w : Word} (h : s.inbox = .access (cmdWrite w) :: rest) :
    step s = writeCmd w { s with inbox := rest, response := .writeDone } := by
  rw [step_write h (by decide)]
  rfl

/-- Everything a performed access can do: it is an aligned word access; a read answers a word, a write is a write. -/
theorem performAccess_cases {a : HostAccess} (h : performAccess a s = .next t) :
    ∃ o, windowOffset a.addr = some o ∧ accessible a.width o = true ∧
      ((a.op = .read ∧ t = { s with response := .readData (readWord o s) }) ∨
       (∃ w, a.op = .write w ∧ writeWord o w { s with response := .writeDone } = .next t)) := by
  unfold performAccess at h
  split at h
  · cases h
  · next o ho =>
    split at h
    · next hacc =>
      refine ⟨o, ho, hacc, ?_⟩
      split at h
      · next hop => cases h; exact .inl ⟨hop, rfl⟩
      · next w hop => exact .inr ⟨w, hop, h⟩
    · cases h

/-- Everything a performed write can do: a command, a register write, a buffer write, or nothing. -/
theorem writeWord_cases {o : Offset} {w : Word} (h : writeWord o w s = .next t) :
    (placeAt o = .register .cmd ∧ writeCmd w s = .next t) ∨
    (∃ r, r ≠ .cmd ∧ placeAt o = .register r ∧ t = writeReg r w s) ∨
    (∃ b i, b ≠ .mbox ∧ placeAt o = .buffer b i ∧ t = writeBufferWord b i w s) ∨
    ((placeAt o = .reserved ∨ ∃ i, placeAt o = .buffer .mbox i) ∧ t = s) := by
  unfold writeWord at h
  split at h
  · next hp => exact .inl ⟨hp, h⟩
  · next r hp hr => cases h; exact .inr (.inl ⟨r, fun e => hp (by rw [e]), hr, rfl⟩)
  · next hp => cases h; exact .inr (.inr (.inr ⟨.inl hp, rfl⟩))
  · next i hp => cases h; exact .inr (.inr (.inr ⟨.inr ⟨i, hp⟩, rfl⟩))
  · next b i hp hr => cases h; exact .inr (.inr (.inl ⟨b, i, hp, hr, rfl⟩))

/-- Everything a write to CMD can do: the decoded command, or the illegal-command rule. -/
theorem writeCmd_cases {w : Word} (h : writeCmd w s = .next t) :
    (∃ i, decode w = .ok i ∧ exec i s = .next t) ∨
    (∃ op, decode w = .error (.unassignedOpcode op) ∧ t = s.setResult .illegalCmd) := by
  unfold writeCmd at h
  split at h
  · next i hd => exact .inl ⟨i, hd, h⟩
  · next op hd => cases h; exact .inr ⟨op, hd, rfl⟩

end Sys2Proof.Machine
end

