-- ==== Sys2Proof/Laws/Crc.lean ====
section
/-! SUPPORT. The CRC function as a left fold, and its shift steps (41_checksum.md R95, R96). -/

namespace Sys2Proof.Machine

@[simp] theorem crc16_nil (v : Half) : crc16 v [] = v := rfl

@[simp] theorem crc16_cons (v : Half) (x : Byte) (xs : List Byte) : crc16 v (x :: xs) = crc16 (crc16Update v x) xs := rfl

theorem crc16_append (v : Half) (xs ys : List Byte) : crc16 v (xs ++ ys) = crc16 (crc16 v xs) ys :=
  List.foldl_append

/-- A shift step that shifts a 0 out only shifts. -/
theorem crc16Shift_even (v : Half) (h : v.getLsbD 0 = false) : crc16Shift v = v >>> 1 := by
  rw [crc16Shift, h]; rfl

/-- A shift step that shifts a 1 out applies the feedback. -/
theorem crc16Shift_odd (v : Half) (h : v.getLsbD 0 = true) : crc16Shift v = (v >>> 1) ^^^ crcFeedback := by
  rw [crc16Shift, h]; rfl

end Sys2Proof.Machine
end

