-- ==== Sys2Proof/Laws/Decode.lean ====
section
/-! SUPPORT. Fields placed in words and read back, and the fields of a command word (30_encoding.md R70). -/

namespace Sys2Proof

/-- The bits of a placed field: the value's own bits from `lo` up, 0 elsewhere. -/
theorem getLsbD_fieldAt {n : Nat} (v : BitVec n) (lo i : Nat) :
    (fieldAt v lo).getLsbD i = (decide (i < 32) && decide (lo ≤ i) && v.getLsbD (i - lo)) := by
  simp only [fieldAt, BitVec.getLsbD_shiftLeft, BitVec.getLsbD_setWidth]
  by_cases h1 : i < 32 <;> by_cases h2 : lo ≤ i <;> simp [h1, h2, Nat.not_lt.mpr, Nat.not_le.mp]
  omega

theorem opField_commandWord (op a : Byte) (b : Half) : opField (commandWord op a b) = op := by
  apply BitVec.eq_of_getLsbD_eq
  intro i hi
  simp only [opField, commandWord, BitVec.getLsbD_extractLsb', BitVec.getLsbD_or, getLsbD_fieldAt]
  simp [hi, show ¬ 8 ≤ i by omega, show ¬ 16 ≤ i by omega, show i < 32 by omega]

theorem aField_commandWord (op a : Byte) (b : Half) : aField (commandWord op a b) = a := by
  apply BitVec.eq_of_getLsbD_eq
  intro i hi
  simp only [aField, commandWord, BitVec.getLsbD_extractLsb', BitVec.getLsbD_or, getLsbD_fieldAt]
  simp [hi, show ¬ 16 ≤ 8 + i by omega, show 8 + i < 32 by omega]

theorem bField_commandWord (op a : Byte) (b : Half) : bField (commandWord op a b) = b := by
  apply BitVec.eq_of_getLsbD_eq
  intro i hi
  simp only [bField, commandWord, BitVec.getLsbD_extractLsb', BitVec.getLsbD_or, getLsbD_fieldAt]
  simp [hi, show 8 ≤ 16 + i by omega, show 16 + i < 32 by omega, show 16 + i - 8 = 8 + i by omega]

/-- The decoder depends on a word only through its three fields. -/
theorem decode_congr_fields (w w' : Word) (h : opField w = opField w') (ha : aField w = aField w')
    (hb : bField w = bField w') : decode w = decode w' := by
  unfold decode; rw [h, ha, hb]

end Sys2Proof
end

