-- ==== Sys2Proof/Laws/Exec.lean ====
section
/-! SUPPORT. Every command as an instance of the one template (40_commands_common.md R85): its checks, its writes
and its success code, so that a proof about all commands splits on these and never unfolds a meaning. -/

namespace Sys2Proof.Machine

/-- The checks of a command, in its rule's order. -/
def commandChecks (i : Instr) (s : State) : List (Bool × ResultCode) :=
  match i with
  | .nop => []
  | .crcInit => []
  | .crcUpdate _ => []
  | .txSend => [(payloadTooLong s, .payloadTooLarge), (!s.sinkEn, .noTransport)]
  | .rxDecode b => [(lengthTooLong b s, .badLength)]
  | .mboxAck => []
  | .initBegin => [needSeq .idle s]
  | .initFeed _ => [needSeq .initScan s]
  | .initEnd => [needSeq .initScan s]
  | .saveBegin => [needSeq .idle s, needInited s, (decide (s.lastId = 0xFFFF), .idExhausted)]
  | .saveCommit => [needSeq .savePending s]
  | .saveAbort a => [needSeq .savePending s, needBoolean a]
  | .deleteBegin b => [needSeq .idle s, needInited s, (notIdentifier b, .invalidIdentifier)]
  | .deleteRemoved a => [needSeq .deleteRemove s, needBoolean a]
  | .probeResult a => [needSeq .deleteProbe s, needBoolean a]
  | .latest => [needSeq .idle s, needInited s, (decide (s.lastId = 0), .notFound)]

/-- The writes of a command whose checks pass, RESULT apart. -/
def commandWrites (i : Instr) (s : State) : State :=
  match i with
  | .nop => s
  | .crcInit => { s with crc := crcInitial }
  | .crcUpdate a => { s with crc := crc16Update s.crc a }
  | .txSend => sendFrame s
  | .rxDecode b => decodeFrame (bufBytes .rx b.toNat s) s
  | .mboxAck => { s with mboxFull := false, mboxOverrun := false }
  | .initBegin => { s with scanMax := 0, seq := .initScan }
  | .initFeed b => { s with scanMax := if s.scanMax < b then b else s.scanMax }
  | .initEnd => { s with lastId := s.scanMax, inited := true, seq := .idle }
  | .saveBegin => { s with candidate := s.lastId + 1, seq := .savePending }
  | .saveCommit => { s with lastId := s.candidate, resultId := s.candidate, seq := .idle }
  | .saveAbort _ => { s with seq := .idle }
  | .deleteBegin b => { s with delId := b, seq := .deleteRemove }
  | .deleteRemoved a => afterRemoval a s
  | .probeResult a => afterProbe a s
  | .latest => { s with resultId := s.lastId }

/-- The code of a command whose checks pass. -/
def commandSuccess : Instr → ResultCode
  | .nop => .ok
  | .crcInit => .ok
  | .crcUpdate _ => .ok
  | .txSend => .ok
  | .rxDecode _ => .ok
  | .mboxAck => .ok
  | .initBegin => .ok
  | .initFeed _ => .ok
  | .initEnd => .ok
  | .saveBegin => .ok
  | .saveCommit => .ok
  | .saveAbort a => if a = 0 then .encodeError else .writeError
  | .deleteBegin _ => .ok
  | .deleteRemoved a => if a = 0 then .deleteFailed else .ok
  | .probeResult _ => .ok
  | .latest => .ok

theorem exec_eq_runCommand (i : Instr) (s : State) :
    exec i s = runCommand (commandChecks i s) (commandWrites i) (commandSuccess i) s := by
  cases i <;> rfl

/-- Everything a command can do. -/
theorem exec_cases {i : Instr} {s t : State} (h : exec i s = .next t) :
    (∃ c, firstFailure (commandChecks i s) = some c ∧ t = s.setResult c) ∨
    (firstFailure (commandChecks i s) = none ∧ t = (commandWrites i s).setResult (commandSuccess i)) := by
  rw [exec_eq_runCommand] at h
  exact runCommand_cases h

theorem exec_pass {i : Instr} {s : State} (h : firstFailure (commandChecks i s) = none) :
    exec i s = .next ((commandWrites i s).setResult (commandSuccess i)) := by
  rw [exec_eq_runCommand, runCommand_pass h]

theorem exec_fail {i : Instr} {s : State} {c : ResultCode} (h : firstFailure (commandChecks i s) = some c) :
    exec i s = .next (s.setResult c) := by
  rw [exec_eq_runCommand, runCommand_fail h]

/-- What the scan step can do: end at 0, or hand out the cursor. -/
theorem scanAt_cases (cursor : Half) (s : State) :
    (cursor = 0 ∧ scanAt cursor s = { s with lastId := 0, seq := .idle }) ∨
    (cursor ≠ 0 ∧ scanAt cursor s = { s with probeId := cursor, seq := .deleteProbe }) := by
  unfold scanAt
  split
  · next h => exact .inl ⟨h, rfl⟩
  · next h => exact .inr ⟨h, rfl⟩

/-- What the writes of an accepted RX_DECODE can do (42_frame_codec.md R115): an early drop that writes RX_RESULT
alone, or the checksum stage with RX_CRC written. -/
theorem decodeFrame_cases (f : List Byte) (s : State) :
    (∃ r, r ≠ .delivered ∧ r ≠ .mailboxBusy ∧ decodeFrame f s = s.setRxResult r) ∨
    (decodeFrame f s = judgeFrame f { s with rxCalc := frameCalc f, rxRecv := frameRecv f } ∧ 4 ≤ f.length ∧
      frameOpcode f = s.respOpc ∧ frameAddress f = s.rxAddr) := by
  unfold decodeFrame
  split
  · exact .inl ⟨_, by decide, by decide, rfl⟩
  · split
    · exact .inl ⟨_, by decide, by decide, rfl⟩
    · split
      · exact .inl ⟨_, by decide, by decide, rfl⟩
      · split
        · exact .inl ⟨_, by decide, by decide, rfl⟩
        · next h4 ho ha => exact .inr ⟨rfl, by omega, not_not.mp ho, not_not.mp ha⟩

/-- What the checksum stage can do: a drop that writes RX_RESULT, a busy mailbox, or a delivery. -/
theorem judgeFrame_cases (f : List Byte) (s : State) :
    (∃ r, r ≠ .delivered ∧ r ≠ .mailboxBusy ∧ judgeFrame f s = s.setRxResult r) ∨
    (s.mboxFull = true ∧ judgeFrame f s = { s with mboxOverrun := true }.setRxResult .mailboxBusy) ∨
    (s.mboxFull = false ∧ s.consEn = true ∧ frameCalc f = frameRecv f ∧
      judgeFrame f s = (deliver (framePayload f) s).setRxResult .delivered) := by
  unfold judgeFrame
  split
  · exact .inl ⟨_, by decide, by decide, rfl⟩
  · next hc =>
    split
    · exact .inl ⟨_, by decide, by decide, rfl⟩
    · next he =>
      split
      · next hf => exact .inr (.inl ⟨hf, rfl⟩)
      · next hf => exact .inr (.inr ⟨by simpa using hf, by simpa using he, not_not.mp hc, rfl⟩)

/-- What a delivery writes: the mailbox's stored bytes, MBOX_INFO and MBOX_FULL, and nothing else. -/
theorem deliver_eq (payload : List Byte) (s : State) :
    deliver payload s = { s with
      mboxbuf := (deliver payload s).mboxbuf, mboxLen := BitVec.ofNat 16 payload.length,
      mboxHandle := s.consHandle, mboxFull := true } := by
  unfold deliver
  rw [writeBytes_eq_setStored]
  rfl

/-- What an accepted RX_DECODE can write: RX_RESULT, RX_CRC and the mailbox, and nothing else. -/
theorem decodeFrame_eq (f : List Byte) (s : State) :
    decodeFrame f s = { s with
      rxResult := (decodeFrame f s).rxResult, rxCalc := (decodeFrame f s).rxCalc, rxRecv := (decodeFrame f s).rxRecv,
      mboxFull := (decodeFrame f s).mboxFull, mboxOverrun := (decodeFrame f s).mboxOverrun,
      mboxbuf := (decodeFrame f s).mboxbuf, mboxLen := (decodeFrame f s).mboxLen,
      mboxHandle := (decodeFrame f s).mboxHandle } := by
  rcases decodeFrame_cases f s with ⟨r, _, _, h⟩ | ⟨h, _⟩ <;> rw [h]
  · rfl
  · rcases judgeFrame_cases f { s with rxCalc := frameCalc f, rxRecv := frameRecv f } with
      ⟨r, _, _, h⟩ | ⟨_, h⟩ | ⟨_, _, _, h⟩ <;> rw [h]
    · rfl
    · rfl
    · rw [deliver_eq]
      rfl

end Sys2Proof.Machine
end

