-- ==== Sys2Proof/Laws/PerInstr.lean ====
section
/-! SUPPORT. Facts about each command as syntax: its encoding has the opcode its row of 30_encoding.md R74 gives it. -/

namespace Sys2Proof.Laws

/-- The OP column of 30_encoding.md R74 for a command. -/
def MatchesTable.op : Instr → Byte
  | .nop => 0x00
  | .crcInit => 0x01
  | .crcUpdate _ => 0x02
  | .txSend => 0x10
  | .rxDecode _ => 0x11
  | .mboxAck => 0x12
  | .initBegin => 0x20
  | .initFeed _ => 0x21
  | .initEnd => 0x22
  | .saveBegin => 0x23
  | .saveCommit => 0x24
  | .saveAbort _ => 0x25
  | .deleteBegin _ => 0x26
  | .deleteRemoved _ => 0x27
  | .probeResult _ => 0x28
  | .latest => 0x29

/-- The encoding of `i` matches its row: opcode `match` under the mask 0x000000FF. -/
def MatchesTable.Statement (i : Instr) : Prop := opField (encode i) = MatchesTable.op i

namespace MatchesTable

theorem nop : Statement .nop := opField_commandWord _ _ _
theorem crcInit : Statement .crcInit := opField_commandWord _ _ _
theorem crcUpdate (a : Byte) : Statement (.crcUpdate a) := opField_commandWord _ _ _
theorem txSend : Statement .txSend := opField_commandWord _ _ _
theorem rxDecode (b : Half) : Statement (.rxDecode b) := opField_commandWord _ _ _
theorem mboxAck : Statement .mboxAck := opField_commandWord _ _ _
theorem initBegin : Statement .initBegin := opField_commandWord _ _ _
theorem initFeed (b : Half) : Statement (.initFeed b) := opField_commandWord _ _ _
theorem initEnd : Statement .initEnd := opField_commandWord _ _ _
theorem saveBegin : Statement .saveBegin := opField_commandWord _ _ _
theorem saveCommit : Statement .saveCommit := opField_commandWord _ _ _
theorem saveAbort (a : Byte) : Statement (.saveAbort a) := opField_commandWord _ _ _
theorem deleteBegin (b : Half) : Statement (.deleteBegin b) := opField_commandWord _ _ _
theorem deleteRemoved (a : Byte) : Statement (.deleteRemoved a) := opField_commandWord _ _ _
theorem probeResult (a : Byte) : Statement (.probeResult a) := opField_commandWord _ _ _
theorem latest : Statement .latest := opField_commandWord _ _ _

end MatchesTable

end Sys2Proof.Laws
end

