-- ==== Sys2Proof/Laws/Step.lean ====
section
/-! SUPPORT. What one step of the machine can do, said once in the terms of Safety.lean: wait, execute the next
command, perform an access that executes no command of the opcode map, or reset. -/

namespace Sys2Proof.Machine

variable {s t : State} {rest : List HostEvent}

/-- The effects of an access `a` that executes no command of the opcode map, on the state its event was taken from:
an illegal command word, a read, a register write, a buffer write, or an ignored write. -/
inductive AccessEffect (a : HostAccess) (s t : State) : Prop where
  | illegal (h : t = { s with response := .writeDone }.setResult .illegalCmd)
  | read (v : Word) (h : t = { s with response := .readData v })
  | register (r : Reg) (w : Word) (hr : r ≠ .cmd) (hw : writeOf (.access a) = some (registerOffset r, w))
      (h : t = writeReg r w { s with response := .writeDone })
  | buffer (b : BufferId) (i : Nat) (w : Word) (hb : b ≠ .mbox)
      (h : t = writeBufferWord b i w { s with response := .writeDone })
  | ignored (h : t = { s with response := .writeDone })

/-- The register region names a register at its own offset. -/
theorem placeAt_registerOffset (r : Reg) : placeAt (registerOffset r) = .register r := by cases r <;> decide

theorem registerAt_some {n : Nat} {r : Reg} (h : registerAt n = some r) : n = (registerOffset r).toNat := by
  unfold registerAt at h
  split at h <;> cases h <;> rfl

/-- An offset that names a register is that register's offset. -/
theorem placeAt_register {o : Offset} {r : Reg} (h : placeAt o = .register r) : o = registerOffset r := by
  unfold placeAt at h
  split at h
  · split at h
    · next r' hr => cases h; exact BitVec.eq_of_toNat_eq (registerAt_some hr)
    · cases h
  all_goals cases h

/-- An offset that names anything but CMD is not CMD's. -/
theorem ne_cmd_of_placeAt {o : Offset} {p : Place} (h : placeAt o = p) (hp : p ≠ .register .cmd) : o ≠ 0x008 := by
  rintro rfl
  exact hp (h.symm.trans (placeAt_registerOffset .cmd))

/-- A performed write, as the statements name it. -/
theorem writeOf_access {a : HostAccess} {o : Offset} {w : Word} (ho : windowOffset a.addr = some o)
    (hacc : accessible a.width o = true) (hop : a.op = .write w) : writeOf (.access a) = some (o, w) := by
  simp [writeOf, ho, hop, hacc]

/-- Everything an access can do, in the terms of `eventCommand`. -/
theorem performAccess_kinds {a : HostAccess} (h : performAccess a s = .next t) :
    (∃ i, eventCommand (.access a) = some i ∧ exec i { s with response := .writeDone } = .next t) ∨
    (eventCommand (.access a) = none ∧ AccessEffect a s t) := by
  obtain ⟨o, ho, hacc, ⟨hop, rfl⟩ | ⟨w, hop, hw⟩⟩ := performAccess_cases h
  · exact .inr ⟨by simp [eventCommand, cmdWordOf, writeOf, ho, hop], .read _ rfl⟩
  · have hwr := writeOf_access ho hacc hop
    have hno : o ≠ 0x008 → eventCommand (.access a) = none := fun hne => by
      simp only [eventCommand, cmdWordOf, hwr, if_neg hne]
    rcases writeWord_cases hw with ⟨hp, hc⟩ | ⟨r, hr, hp, rfl⟩ | ⟨b, i, hb, hp, rfl⟩ | ⟨hp, rfl⟩
    · have hcw : cmdWordOf (.access a) = some w := by simp [cmdWordOf, hwr, placeAt_register hp, registerOffset]
      rcases writeCmd_cases hc with ⟨i, hd, he⟩ | ⟨op, hd, rfl⟩
      · exact .inl ⟨i, by simp [eventCommand, hcw, hd], he⟩
      · exact .inr ⟨by simp [eventCommand, hcw, hd], .illegal rfl⟩
    · exact .inr ⟨hno (ne_cmd_of_placeAt hp (by simpa using hr)),
        .register r w hr (by rw [hwr, placeAt_register hp]) rfl⟩
    · exact .inr ⟨hno (ne_cmd_of_placeAt hp nofun), .buffer b i w hb rfl⟩
    · refine .inr ⟨hno ?_, .ignored rfl⟩
      rcases hp with hp | ⟨i, hp⟩ <;> exact ne_cmd_of_placeAt hp nofun

/-- Everything a step can do. -/
inductive StepKind (s t : State) : Prop where
  /-- No event: the block waits. -/
  | wait (hi : s.inbox = []) (h : t = s)
  /-- A command of the opcode map. -/
  | command (e : HostEvent) (rest : List HostEvent) (i : Instr) (hi : s.inbox = e :: rest)
      (hc : nextCommand s = some i) (hr : nextIsReset s = false)
      (h : exec i { s with inbox := rest, response := .writeDone } = .next t)
  /-- An access that executes none. -/
  | access (a : HostAccess) (rest : List HostEvent) (hi : s.inbox = .access a :: rest) (hc : nextCommand s = none)
      (hr : nextIsReset s = false) (h : AccessEffect a { s with inbox := rest } t)
  /-- A reset. -/
  | reset (d : Option HostAccess) (rest : List HostEvent) (hi : s.inbox = .reset d :: rest)
      (hc : nextCommand s = none) (hr : nextIsReset s = true) (h : t = resetBlock { s with inbox := rest })
  /-- A power cycle. -/
  | power (rest : List HostEvent) (hi : s.inbox = .powerCycle :: rest) (hc : nextCommand s = none)
      (hr : nextIsReset s = true) (h : t = powerUp { s with inbox := rest })

theorem step_kinds (h : step s = .next t) : StepKind s t := by
  rcases step_cases h with ⟨hi, ht⟩ | ⟨a, rest, hi, hp⟩ | ⟨d, rest, hi, ht⟩ | ⟨rest, hi, ht⟩
  · exact .wait hi ht
  · rcases performAccess_kinds hp with ⟨i, hc, he⟩ | ⟨hc, he⟩
    · exact .command _ rest i hi (by simp [nextCommand, hi, hc]) (by simp [nextIsReset, hi, eventIsReset]) he
    · exact .access a rest hi (by simp [nextCommand, hi, hc]) (by simp [nextIsReset, hi, eventIsReset]) he
  · exact .reset d rest hi (by simp [nextCommand, hi, eventCommand, cmdWordOf, writeOf])
      (by simp [nextIsReset, hi, eventIsReset]) ht
  · exact .power rest hi (by simp [nextCommand, hi, eventCommand, cmdWordOf, writeOf])
      (by simp [nextIsReset, hi, eventIsReset]) ht

end Sys2Proof.Machine
end

