-- ==== Sys2Proof/Tests/Slice0.lean ====
section
/-! SUPPORT. Small tests: the well-formedness checks refuse ill-formed terms, words written out from the encoding
tables decode, one step of each command on a vector of 95_test_vectors.md, and for every statement with hypotheses a
state and operands that meet them (`witness_<statement>`). Expected values come from spec/, none from the model. -/

namespace Sys2Proof.Tests

open Sys2Proof Sys2Proof.Machine

/-! ### Helpers -/

/-- The outcome is a next state with the property. -/
def gives (o : Host.Outcome State Fault Refusal) (p : State → Bool) : Bool :=
  match o with
  | .next t => p t
  | .fault _ => false
  | .refused _ => false

theorem gives_next {o : Host.Outcome State Fault Refusal} {p : State → Bool} (h : gives o p = true) :
    ∃ t, o = .next t ∧ p t = true := by
  cases o with
  | next t => exact ⟨t, rfl, h⟩
  | fault r => cases h
  | refused r => cases h

/-- The block of 95_test_vectors.md: just out of reset, MAXLEN = 64. -/
def block : State := { State.reset with maxlen := 64 }

/-- Its sequencer after an init scan that left LAST_ID = `last`. -/
def inited (last : Half) : State := { block with inited := true, lastId := last }

/-- Vector TX1: DEST 01, OPC 02, LEN 2, TXBUF AA BB, sink registered. -/
def txReady : State :=
  { block with sinkEn := true, txDest := 0x01, txOpc := 0x02, txLen := 2, txbuf := [(0, 0xAA), (1, 0xBB)], crc := 0x1234 }

/-- Section 2.3: RX_CFG 0x0201, CTRL 0x0302, and a frame in RXBUF. -/
def rxReady (frame : List Byte) : State :=
  { block with
    rxAddr := 0x01, respOpc := 0x02, consEn := true, consHandle := 0x03,
    rxbuf := (List.range frame.length).zip frame }

/-- RX9's frame, TX1's with its checksum. -/
def goodFrame : List Byte := [0x01, 0x02, 0xAA, 0xBB, 0x9E, 0xCB]

/-- A full mailbox, as RX9 leaves it, with its interrupt enabled. -/
def fullMailbox : State :=
  { rxReady goodFrame with mboxFull := true, mboxLen := 2, mboxHandle := 0x03, irqEn := true }

/-- An aligned 32-bit write to an offset of the window as the next event. -/
def writing (o : Offset) (w : Word) (s : State) : State :=
  { s with inbox := [.access { addr := .window o, width := .w32, op := .write w }] }

/-- An aligned 32-bit read of an offset of the window as the next event. -/
def reading (o : Offset) (s : State) : State :=
  { s with inbox := [.access { addr := .window o, width := .w32, op := .read }] }

/-- An event as the next one. -/
def facing (e : HostEvent) (s : State) : State := { s with inbox := [e] }

/-! ### Well-formedness refuses -/

/-- 20_memory.md R52: an 8-bit access. -/
theorem test_wf_refuses_narrow_access :
    HostAccess.wellFormed { addr := .window 0x008, width := .w8, op := .write 1 } = false := by decide
/-- 20_memory.md R52: a misaligned one (HX6). -/
theorem test_wf_refuses_misaligned_access :
    HostAccess.wellFormed { addr := .window 0x00E, width := .w32, op := .read } = false := by decide
/-- 20_memory.md R54: a byte index that is no multiple of 4, and one past the window. -/
theorem test_wf_refuses_odd_target : Target.wellFormed (.buf .tx 2) = false := by decide
theorem test_wf_refuses_far_target : Target.wellFormed (.buf .rx 0x1000) = false := by decide
/-- 30_encoding.md R80: WRBUF names TXBUF or RXBUF. -/
theorem test_wf_refuses_wrbuf_mbox : HostLine.wellFormed (.wrbuf .mbox [0x01]) = false := by decide
/-- 00_scope.md R5: 4 <= MAXLEN <= 4096. -/
theorem test_wf_refuses_small_maxlen : Config.maxlenOk 3 = false := by decide
theorem test_wf_refuses_large_maxlen : Config.maxlenOk 4097 = false := by decide
theorem test_wf_admits_maxlen_bounds : Config.maxlenOk 4 = true ∧ Config.maxlenOk 4096 = true := by decide

/-! ### Decoding, words written out from 30_encoding.md R70, R74, R79 -/

theorem test_decode_nop : decode 0x00000000 = .ok .nop := by decide
theorem test_decode_crcInit : decode 0x00000001 = .ok .crcInit := by decide
theorem test_decode_crcUpdate : decode 0x00003102 = .ok (.crcUpdate 0x31) := by decide
theorem test_decode_txSend : decode 0x00000010 = .ok .txSend := by decide
theorem test_decode_rxDecode : decode 0x00410011 = .ok (.rxDecode 65) := by decide
theorem test_decode_mboxAck : decode 0x00000012 = .ok .mboxAck := by decide
theorem test_decode_initBegin : decode 0x00000020 = .ok .initBegin := by decide
theorem test_decode_initFeed : decode 0x00070021 = .ok (.initFeed 7) := by decide
theorem test_decode_initEnd : decode 0x00000022 = .ok .initEnd := by decide
theorem test_decode_saveBegin : decode 0x00000023 = .ok .saveBegin := by decide
theorem test_decode_saveCommit : decode 0x00000024 = .ok .saveCommit := by decide
theorem test_decode_saveAbort : decode 0x00000225 = .ok (.saveAbort 2) := by decide
theorem test_decode_deleteBegin : decode 0x00030026 = .ok (.deleteBegin 3) := by decide
theorem test_decode_deleteRemoved : decode 0x00000127 = .ok (.deleteRemoved 1) := by decide
theorem test_decode_probeResult : decode 0x00000328 = .ok (.probeResult 3) := by decide
theorem test_decode_latest : decode 0x00000029 = .ok .latest := by decide
/-- CR26: B is not read. -/
theorem test_decode_ignores_unread : decode 0xFFFF4102 = .ok (.crcUpdate 0x41) := by decide
/-- HX2 to HX4. -/
theorem test_decode_rejects :
    decode 0x000000FF = .error (.unassignedOpcode 0xFF) ∧ decode 0x12340003 = .error (.unassignedOpcode 0x03) ∧
    decode 0x0000002A = .error (.unassignedOpcode 0x2A) := by decide
theorem test_decodeTableWord_rxDecode : decodeTableWord 32 0x00060011 = some (.rxDecode 6) := by decide
theorem test_decodeTableWord_unassigned : decodeTableWord 32 0x00000003 = none := by decide
/-- 30_encoding.md R79. -/
theorem test_encode_saveAbort : encode (.saveAbort 2) = 0x00000225 := by decide

/-! ### One step of each command -/

/-- HX1. -/
theorem test_nop : gives (exec .nop { block with result := .deleteFailed }) (fun t => t.result = .ok) := by decide
/-- CR23. -/
theorem test_crcInit : gives (exec .crcInit { block with crc := 0x1234 }) (fun t => t.crc = 0xFFFF) := by decide
/-- CR1, CR8b. -/
theorem test_crcUpdate_zero : gives (exec (.crcUpdate 0x00) block) (fun t => t.crc = 0x40BF) := by decide
theorem test_crcUpdate_mixed :
    gives (exec (.crcUpdate 0x56) { block with crc := 0x1234 }) (fun t => t.crc = 0xE993) := by decide
/-- CR9, the check value. -/
theorem test_crc16_check :
    crc16 0xFFFF [0x31, 0x32, 0x33, 0x34, 0x35, 0x36, 0x37, 0x38, 0x39] = 0x4B37 := by decide +kernel
/-- TX1, with the CRC register untouched. -/
theorem test_txSend : gives (exec .txSend txReady) (fun t =>
    t.txOut = goodFrame ∧ t.txCrc = 0xCB9E ∧ t.result = .ok ∧ t.crc = 0x1234) := by decide +kernel
/-- TX8. -/
theorem test_txSend_too_large : gives (exec .txSend { txReady with txLen := 61, sinkEn := false }) (fun t =>
    t.result = .payloadTooLarge ∧ t.txOut = [] ∧ t.txCrc = 0) := by decide
/-- RX9. -/
theorem test_rxDecode_delivers : gives (exec (.rxDecode 6) (rxReady goodFrame)) (fun t =>
    t.rxResult = .delivered ∧ readReg .rxCrc t = 0xCB9ECB9E ∧ readReg .mboxInfo t = 0x00030002 ∧
    bufByte .mbox 0 t = 0xAA ∧ bufByte .mbox 1 t = 0xBB ∧ readReg .status t = 0x00001000) := by decide +kernel
/-- RX7. -/
theorem test_rxDecode_mismatch :
    gives (exec (.rxDecode 6) (rxReady [0x01, 0x02, 0xAA, 0xBB, 0x9E, 0xCC])) (fun t =>
      t.rxResult = .checksumMismatch ∧ readReg .rxCrc t = 0xCC9ECB9E ∧ t.mboxFull = false) := by decide +kernel
/-- MB1. -/
theorem test_mboxAck : gives (exec .mboxAck { fullMailbox with mboxOverrun := true }) (fun t =>
    t.mboxFull = false ∧ t.mboxOverrun = false ∧ irqOut t = false ∧ t.mboxLen = 2) := by decide
/-- SQ4's first command, over a stale SCAN_MAX. -/
theorem test_initBegin :
    gives (exec .initBegin { block with scanMax := 9 }) (fun t => t.seq = .initScan ∧ t.scanMax = 0) := by decide
/-- SQ20 and the other order (43_id_sequencer.md R139). -/
theorem test_initFeed_lower :
    gives (exec (.initFeed 0) { block with seq := .initScan, scanMax := 2 }) (fun t => t.scanMax = 2) := by decide
theorem test_initFeed_higher :
    gives (exec (.initFeed 0x8000) { block with seq := .initScan, scanMax := 2 }) (fun t => t.scanMax = 0x8000) := by
  decide
/-- SQ19's last command. -/
theorem test_initEnd : gives (exec .initEnd { inited 6 with seq := .initScan, scanMax := 2 }) (fun t =>
    t.lastId = 2 ∧ t.inited = true ∧ t.seq = .idle) := by decide
/-- SQ5, SQ7. -/
theorem test_saveBegin :
    gives (exec .saveBegin (inited 0)) (fun t => t.candidate = 1 ∧ t.seq = .savePending ∧ t.lastId = 0) := by decide
theorem test_saveBegin_exhausted :
    gives (exec .saveBegin (inited 0xFFFF)) (fun t => t.result = .idExhausted ∧ t.seq = .idle) := by decide
/-- SQ6's second command. -/
theorem test_saveCommit :
    gives (exec .saveCommit { inited 0xFFFE with seq := .savePending, candidate := 0xFFFF }) (fun t =>
      t.lastId = 0xFFFF ∧ t.resultId = 0xFFFF ∧ t.seq = .idle) := by decide
/-- SQ8; program P3's first abort. -/
theorem test_saveAbort_badArg : gives (exec (.saveAbort 2) { inited 5 with seq := .savePending, candidate := 6 })
    (fun t => t.result = .badArg ∧ t.seq = .savePending) := by decide
theorem test_saveAbort_write : gives (exec (.saveAbort 1) { inited 5 with seq := .savePending, candidate := 6 })
    (fun t => t.result = .writeError ∧ t.seq = .idle ∧ t.lastId = 5 ∧ t.candidate = 6) := by decide
/-- SQ9, SQ10's first command. -/
theorem test_deleteBegin_zero :
    gives (exec (.deleteBegin 0) (inited 3)) (fun t => t.result = .invalidIdentifier ∧ t.delId = 0) := by decide
theorem test_deleteBegin :
    gives (exec (.deleteBegin 9) (inited 3)) (fun t => t.delId = 9 ∧ t.seq = .deleteRemove) := by decide
/-- SQ12's second command, program P4's first. -/
theorem test_deleteRemoved_one : gives (exec (.deleteRemoved 1) { inited 1 with seq := .deleteRemove, delId := 1 })
    (fun t => t.lastId = 0 ∧ t.seq = .idle ∧ t.probeId = 0) := by decide
theorem test_deleteRemoved_scan : gives (exec (.deleteRemoved 1) { inited 4 with seq := .deleteRemove, delId := 4 })
    (fun t => t.probeId = 3 ∧ t.seq = .deleteProbe ∧ t.lastId = 4) := by decide
/-- SQ13; program P4's last probe. -/
theorem test_probeResult_absent :
    gives (exec (.probeResult 0) { inited 2 with seq := .deleteProbe, delId := 2, probeId := 1 })
      (fun t => t.lastId = 0 ∧ t.seq = .idle) := by decide
theorem test_probeResult_exists :
    gives (exec (.probeResult 1) { inited 4 with seq := .deleteProbe, delId := 4, probeId := 1 })
      (fun t => t.lastId = 1 ∧ t.seq = .idle) := by decide
/-- SQ22; program P3's last LATEST. -/
theorem test_latest_none : gives (exec .latest (inited 0)) (fun t => t.result = .notFound ∧ t.resultId = 0) := by decide
theorem test_latest : gives (exec .latest (inited 6)) (fun t => t.resultId = 6) := by decide

/-! ### Host accesses and reset -/

/-- HX9, HX16. -/
theorem test_ctrl_write : gives (step (writing 0x000 0xFFFFFFFF block)) (fun t => readReg .ctrl t = 0x0000FF07) := by
  decide
theorem test_param_read : gives (step (reading 0x03C block)) (fun t => t.response = .readData 0x00000040) := by decide
/-- HX13. -/
theorem test_rxbuf_write : gives (step (writing 0x2000 0xBBAA0201 block)) (fun t =>
    bufByte .rx 0 t = 0x01 ∧ bufByte .rx 1 t = 0x02 ∧ bufByte .rx 2 t = 0xAA ∧ bufByte .rx 3 t = 0xBB) := by decide
/-- HX14: bytes 60 and above of TXBUF do not exist. -/
theorem test_txbuf_beyond : gives (step (writing 0x103C 0x11223344 block)) (fun t => t.txbuf = []) := by decide
/-- 70_reset_and_hazards.md R200's STATUS row. -/
theorem test_reset_status : readReg .status State.reset = 0x000F0000 ∧ readReg .crc State.reset = 0x0000FFFF := by decide
/-- A power cycle empties TX_OUT, a reset keeps it (70_reset_and_hazards.md R200, R204). -/
theorem test_reset_txOut :
    gives (step (facing (.reset none) { txReady with txOut := [0x01] })) (fun t => t.txOut = [0x01] ∧ t.txLen = 0) ∧
    gives (step (facing .powerCycle { txReady with txOut := [0x01] })) (fun t => t.txOut = [] ∧ t.txLen = 0) := by
  decide
/-- The interface's fetch: the word given is the command the very next step runs. -/
theorem test_withFetchWord :
    gives (step (State.reset.withFetchWord 32 0x00003102)) (fun t => t.crc = crc16Update 0xFFFF 0x31) := by decide
/-- 30_encoding.md R80, program P2's WRBUF line. -/
theorem test_wrbuf : expandLine (.wrbuf .rx goodFrame) =
    [{ addr := .window 0x2000, width := .w32, op := .write 0xBBAA0201 },
     { addr := .window 0x2004, width := .w32, op := .write 0x0000CB9E }] := by decide

/-! ### Witnesses: the hypotheses of each statement, met -/

theorem witness_DecodeEncodeRoundTrip : Instr.wellFormed (.rxDecode 0xFFFF) = true := by decide
theorem witness_UnreadFieldsAreIgnored :
    decode 0xFFFF4102 = .ok (.crcUpdate 0x41) ∧
    0x00FF4102#32 &&& readMask (.crcUpdate 0x41) = 0xFFFF4102 &&& readMask (.crcUpdate 0x41) := by decide
theorem witness_UnassignedOpcodesAreIllegal :
    (∀ op ∈ [0x03, 0x0F, 0x13, 0x1F, 0x2A, 0xFF],
      (0x03 ≤ op ∧ op ≤ 0x0F) ∨ (0x13 ≤ op ∧ op ≤ 0x1F) ∨ 0x2A ≤ op) ∧
    (∀ op ∈ [0x00, 0x02, 0x10, 0x12, 0x20, 0x29],
      ¬ ((0x03 ≤ op ∧ op ≤ 0x0F) ∨ (0x13 ≤ op ∧ op ≤ 0x1F) ∨ 0x2A ≤ op)) := by decide
theorem witness_StepRunsDecodedCommand :
    (writing 0x008 0x00060011 block).inbox =
      .access { addr := .window 0x008, width := .w32, op := .write 0x00060011 } :: [] ∧
    decode 0x00060011 = .ok (.rxDecode 6) ∧ Instr.wellFormed (.rxDecode 6) = true := by decide
theorem witness_CrcResidueIsZero : State.reset.crc = 0xFFFF := by decide
theorem witness_SingleBitFlipIsDetected :
    4 ≤ goodFrame.length ∧ 5 < goodFrame.length ∧ 7 < 8 ∧ frameCalc goodFrame = frameRecv goodFrame ∧
    (let f : List Byte := [0x42, 0x81, 0xF1, 0x70]
     4 ≤ f.length ∧ 0 < f.length ∧ 0 < 8 ∧ frameCalc f = frameRecv f) := by decide +kernel
theorem witness_TxSendEmitsFrameOrFails :
    (let s := { txReady with txLen := 61 }; s.maxlen < s.txLen.toNat + 4) ∧
    (let s := { txReady with txLen := 60, sinkEn := false }; s.txLen.toNat + 4 ≤ s.maxlen ∧ s.sinkEn = false) ∧
    (let s := { txReady with txLen := 60 }; s.txLen.toNat + 4 ≤ s.maxlen ∧ s.sinkEn = true) := by decide
theorem witness_SecondTxSendEmitsSameFrame : gives (exec .txSend txReady) (fun t => t.result = .ok) := by decide
theorem witness_RxDecodeReportsFirstOutcome : block.maxlen < (65 : Half).toNat ∧ (64 : Half).toNat ≤ block.maxlen := by
  decide
theorem witness_RxDecodeHeaderDrops :
    (0 : Half).toNat = 0 ∧ 1 ≤ (1 : Half).toNat ∧ (3 : Half).toNat ≤ 3 ∧ 4 ≤ (4 : Half).toNat ∧
    (4 : Half).toNat ≤ block.maxlen ∧
    (let s := rxReady [0x01, 0x03, 0xAA, 0xBB]; bufByte .rx 1 s ≠ s.respOpc) ∧
    (let s := rxReady [0x05, 0x02, 0xAA, 0xBB]
     bufByte .rx 1 s = s.respOpc ∧ bufByte .rx 0 s ≠ s.rxAddr) := by decide

/-- What the three clauses share, with the checksums as the statements compute them. -/
def forThisNode (s : State) (n : Nat) (agree : Bool) : Bool :=
  let f := fun i => bufByte .rx i s
  decide (4 ≤ n) && decide (n ≤ s.maxlen) && f 1 == s.respOpc && f 0 == s.rxAddr &&
  (crc16 0xFFFF ((List.range (n - 2)).map f) == (f (n - 2)).setWidth 16 ||| ((f (n - 1)).setWidth 16 <<< 8)) == agree

theorem witness_RxDecodeChecksumStageDrops :
    forThisNode (rxReady [0x01, 0x02, 0xAB, 0xBB, 0x9E, 0xCB]) 6 false ∧
    forThisNode { rxReady goodFrame with consEn := false } 6 true ∧
    forThisNode fullMailbox 6 true ∧ fullMailbox.consEn = true ∧ fullMailbox.mboxFull = true := by decide +kernel
theorem witness_RxDecodeDelivers :
    forThisNode (rxReady goodFrame) 6 true ∧ forThisNode (rxReady [0x01, 0x02, 0x81, 0xE1]) 4 true ∧
    (rxReady goodFrame).consEn = true ∧ (rxReady goodFrame).mboxFull = false := by decide +kernel
theorem witness_MailboxIsSingleSlot :
    gives (step (writing 0x008 0x00060011 (rxReady goodFrame))) (fun t => t.mboxFull = true) ∧
    gives (step (writing 0x008 0x00000012 fullMailbox)) (fun t => t.mboxFull = false) ∧
    gives (step (facing (.reset none) fullMailbox)) (fun t => t.mboxFull = false) ∧
    gives (step (writing 0x008 0x00060011 fullMailbox)) (fun t => t.mboxFull = true ∧ t.result = .ok) ∧
    nextCommand (writing 0x008 0x00060011 fullMailbox) = some (.rxDecode 6) := by decide +kernel
theorem witness_IrqHasOneSource :
    (let s := writing 0x008 0x00060011 { rxReady goodFrame with irqEn := true }
     irqOut s = false ∧ gives (step s) (fun t => irqOut t = true)) ∧
    (let s := writing 0x000 0x00000004 { fullMailbox with irqEn := false }
     s.mboxFull = true ∧ nextWrite s = some (0x000, 0x00000004) ∧ (0x00000004 : Word).getLsbD 2 = true ∧
     irqOut s = false ∧ gives (step s) (fun t => irqOut t = true)) ∧
    (let s := writing 0x008 0x00000012 fullMailbox; irqOut s = true ∧ gives (step s) (fun t => irqOut t = false)) ∧
    (let s := facing .powerCycle fullMailbox; irqOut s = true ∧ gives (step s) (fun t => irqOut t = false)) ∧
    (let s := writing 0x000 0x00000000 fullMailbox
     nextWrite s = some (0x000, 0x00000000) ∧ irqOut s = true ∧
     gives (step s) (fun t => irqOut t = false ∧ t.mboxFull = true)) := by
  decide +kernel
theorem witness_EncodeThenDecodeDelivers :
    txReady.sinkEn = true ∧ txReady.txLen.toNat + 4 ≤ txReady.maxlen ∧
    gives (exec .txSend txReady) (fun t =>
      ∀ i ∈ List.range 6, bufByte .rx i (rxReady goodFrame) = (t.txOut.drop txReady.txOut.length).getD i 0) ∧
    (let u := rxReady goodFrame
     u.maxlen = txReady.maxlen ∧ u.rxAddr = txReady.txDest ∧ u.respOpc = txReady.txOpc ∧ u.consEn = true ∧
     u.mboxFull = false) ∧
    (6 : Half).toNat = txReady.txLen.toNat + 4 := by decide +kernel
/-- A bit changed in byte 0 (the address), byte 1 (the opcode), byte 2 (the payload) and the last byte. -/
theorem witness_CorruptedFrameIsNotDelivered :
    let s := rxReady goodFrame
    (6 : Half).toNat ≤ s.maxlen ∧ gives (exec (.rxDecode 6) s) (fun t => t.rxResult = .delivered) ∧
    ∀ c ∈ [(0, 0, [0x00, 0x02, 0xAA, 0xBB, 0x9E, 0xCB]), (1, 7, [0x01, 0x82, 0xAA, 0xBB, 0x9E, 0xCB]),
        (2, 0, [0x01, 0x02, 0xAB, 0xBB, 0x9E, 0xCB]), (5, 7, [0x01, 0x02, 0xAA, 0xBB, 0x9E, 0x4B])],
      c.1 < 6 ∧ c.2.1 < 8 ∧ ∀ j, j < 6 → bufByte .rx j (rxReady c.2.2) =
        if j = c.1 then bufByte .rx j s ^^^ (1#8 <<< c.2.1) else bufByte .rx j s := by decide +kernel

/-- SEQ out of and in the state each sequencer command needs, at the operands' boundary values. -/
theorem witness_InitScanCommands :
    { block with seq := .initScan }.seq ≠ .idle ∧ block.seq = .idle ∧ block.seq ≠ .initScan ∧
    { block with seq := .initScan }.seq = .initScan := by decide
theorem witness_InitScanFindsMaximum : block.seq = .idle := by decide
theorem witness_SaveBeginReservesCandidate :
    { block with seq := .savePending }.seq ≠ .idle ∧ (block.seq = .idle ∧ block.inited = false) ∧
    ((inited 0xFFFF).seq = .idle ∧ (inited 0xFFFF).inited = true ∧ (inited 0xFFFF).lastId.toNat = 0xFFFF) ∧
    (inited 0xFFFE).lastId.toNat < 0xFFFF := by decide
theorem witness_SaveCommitAndAbort :
    block.seq ≠ .savePending ∧ { inited 5 with seq := .savePending }.seq = .savePending ∧ 1 < (2 : Byte).toNat ∧
    (0 : Byte).toNat = 0 ∧ (1 : Byte).toNat = 1 := by decide
theorem witness_SafePointLaw :
    gives (exec .saveCommit { inited 5 with seq := .savePending, candidate := 6 }) (fun t => t.lastId = 6) ∧
    gives (exec .saveBegin (inited 5)) (fun t => t.lastId = 5) ∧
    gives (exec (.saveAbort 1) { inited 5 with seq := .savePending, candidate := 6 }) (fun t => t.lastId = 5) := by decide
theorem witness_SavesAreMonotoneAndRollBack :
    gives (exec .saveBegin (inited 5)) (fun t =>
      t.result = .ok ∧ gives (exec .saveCommit t) (fun u => u.lastId = 6) ∧
      gives (exec (.saveAbort 1) t) (fun u => gives (exec .saveBegin u) (fun v => v.candidate = 6))) := by decide
theorem witness_DeleteBeginRecordsIdentifier :
    { inited 3 with seq := .deleteRemove }.seq ≠ .idle ∧ (block.seq = .idle ∧ block.inited = false) ∧
    ((inited 3).seq = .idle ∧ (inited 3).inited = true) ∧ (0 : Half).toNat = 0 ∧ 1 ≤ (1 : Half).toNat := by decide
theorem witness_DeleteRemovedEndsOrStartsScan :
    (inited 3).seq ≠ .deleteRemove ∧ 1 < (2 : Byte).toNat ∧
    (let s := { inited 3 with seq := .deleteRemove, delId := 9 }; s.seq = .deleteRemove ∧ s.delId ≠ s.lastId) ∧
    (let s := { inited 1 with seq := .deleteRemove, delId := 1 }; s.delId = s.lastId ∧ s.lastId.toNat = 1) ∧
    (let s := { inited 2 with seq := .deleteRemove, delId := 2 }; s.delId = s.lastId ∧ 2 ≤ s.lastId.toNat) := by decide
theorem witness_ProbeResultMovesCursor :
    (inited 3).seq ≠ .deleteProbe ∧ 1 < (3 : Byte).toNat ∧
    (let s := { inited 4 with seq := .deleteProbe, delId := 4, probeId := 1 }
     s.seq = .deleteProbe ∧ s.probeId.toNat = 1) ∧
    (let s := { inited 4 with seq := .deleteProbe, delId := 4, probeId := 2 }
     s.seq = .deleteProbe ∧ 2 ≤ s.probeId.toNat) := by decide
theorem witness_LatestReturnsLastId :
    { inited 4 with seq := .deleteProbe }.seq ≠ .idle ∧ (block.seq = .idle ∧ block.inited = false) ∧
    ((inited 0).seq = .idle ∧ (inited 0).inited = true ∧ (inited 0).lastId.toNat = 0) ∧
    1 ≤ (inited 1).lastId.toNat := by decide
theorem witness_WrongSeqStateIsBadState : requiredSeq .saveCommit = some .savePending ∧ block.seq ≠ .savePending := by
  decide

/-- A pending scan that keeps the sequencer's invariant, met by a command, an illegal one and a reset. -/
theorem witness_SeqFollowsTransitionTable :
    let s := { inited 4 with seq := .deleteProbe, delId := 4, probeId := 3 }
    SequencerInv (writing 0x008 0x00000028 s) ∧ SequencerInv (facing (.reset none) s) ∧
    gives (step (writing 0x008 0x00000028 s)) (fun t => t.seq = .deleteProbe ∧ t.probeId = 2) ∧
    gives (step (writing 0x008 0x0000002A s)) (fun t => t.seq = .deleteProbe ∧ t.probeId = 3) ∧
    gives (step (facing (.reset none) s)) (fun t => t.seq = .idle) :=
  ⟨⟨by decide, by decide, by decide, by decide⟩, ⟨by decide, by decide, by decide, by decide⟩, by decide, by decide,
    by decide⟩
theorem witness_LastIdChangesOnlyAtItsCommands :
    let s := writing 0x008 0x00000024 { inited 5 with seq := .savePending, candidate := 6 }
    SequencerInv s ∧ nextCommand s = some .saveCommit ∧ s.seq = .savePending ∧
    gives (step s) (fun t => t.lastId ≠ s.lastId) :=
  ⟨⟨by decide, by decide, by decide, by decide⟩, by decide, by decide, by decide⟩
theorem witness_BackwardScanFindsHighestSurvivor :
    let s := { inited 4 with seq := .deleteRemove, delId := 4 }
    s.seq = .deleteRemove ∧ s.delId = s.lastId ∧ s.lastId ≠ 0 := by decide
theorem witness_PendingSequenceStaysPending :
    let s := State.withCommands { block with seq := .initScan } [.latest, .txSend, .initFeed 7]
    s.seq ≠ .idle ∧ (∀ e ∈ s.inbox, eventIsReset e = false) ∧
    s.inbox.map eventCommand = [some .latest, some .txSend, some (.initFeed 7)] ∧
    (∀ i ∈ [Instr.latest, .txSend], requiredSeq i ≠ some s.seq) ∧
    gives (Host.Core.run core 3 s) (fun t => t.seq = .initScan ∧ t.scanMax = 7) ∧
    requiredSeq .latest = some .idle ∧ SeqState.idle ≠ s.seq := by decide
theorem witness_CodecAndCrcIgnoreSequencer :
    requiredSeq (.rxDecode 6) = none ∧ gives (exec (.rxDecode 6) (rxReady goodFrame)) (fun _ => true) := by decide
theorem witness_SequencerIgnoresCodecAndCrc :
    requiredSeq .latest = some .idle ∧ gives (exec .latest (inited 6)) (fun _ => true) := by decide
theorem witness_CodecNeverTouchesCrcRegister :
    gives (exec .txSend txReady) (fun t => t.crc = 0x1234) ∧
    gives (exec (.rxDecode 6) (rxReady goodFrame)) (fun t => t.crc = 0xFFFF) := by decide +kernel
theorem witness_CommandsCompleteAndFailedChecksChangeOnlyResult :
    gives (exec .saveBegin block) (fun t => t.result = .notInit) ∧
    gives (exec (.saveAbort 1) { inited 5 with seq := .savePending }) (fun t => t.result = .writeError) := by decide
theorem witness_CommandsLeaveBuffersAlone :
    gives (exec .txSend txReady) (fun t => bufByte .tx 1 t = 0xBB) ∧
    gives (exec (.rxDecode 6) (rxReady goodFrame)) (fun t => bufByte .rx 5 t = 0xCB) ∧ BufferId.rx ≠ .mbox := by decide +kernel

/-- HX5 and HX6, and an access that is performed. -/
theorem witness_BusErrorExactlyOnUndefinedAccess :
    AccessWidth.w8 ≠ .w32 ∧ (0x00E : Offset).toNat % 4 ≠ 0 ∧ (0x3FFC : Offset).toNat % 4 = 0 ∧
    gives (step (reading 0x3FFC block)) (fun _ => true) := by decide
theorem witness_BusAddressesReachTheWindow : Config.base + 0x4000 ≤ Config.base + 0x4000 := Nat.le_refl _
theorem witness_ReadsChangeNothing :
    (0x000 : Offset).toNat % 4 = 0 ∧ (0x03C : Offset).toNat % 4 = 0 ∧ (0x008 : Offset).toNat % 4 = 0 ∧
    (0x040 : Offset).toNat % 4 = 0 ∧ 0x040 ≤ (0x040 : Offset).toNat ∧
    (0xFFC : Offset).toNat % 4 = 0 ∧ (0xFFC : Offset).toNat < 0x1000 := by decide
theorem witness_ReadOnlyWritesAreIgnored :
    ∀ n ∈ [0x00C, 0x018, 0x03C, 0x040, 0xFFC, 0x3000, 0x3FFC], n % 4 = 0 ∧
      (n = 0x00C ∨ (0x018 ≤ n ∧ n < 0x1000) ∨ 0x3000 ≤ n) := by decide
theorem witness_BufferWordsPackTheirBytes : 0 < 0x400 ∧ 0x3FF < 0x400 ∧ BufferId.tx ≠ .mbox ∧ BufferId.rx ≠ .mbox := by
  decide
theorem witness_NonCommandWritesAreIdempotent :
    (0x103C : Offset) ≠ 0x008 ∧ (0x103C : Offset).toNat % 4 = 0 ∧
    gives (writeWord 0x2000 0xBBAA0201 block) (fun t => t.rxbuf.length = 4) := by decide
theorem witness_OnlyCommandsChangeResult :
    cmdWordOf (.access { addr := .window 0x000, width := .w32, op := .write 7 }) = none ∧
    gives (step (writing 0x000 7 { block with result := .badArg })) (fun t => t.result = .badArg) := by decide
theorem witness_ParamIsConstantAndTxOutAppendOnly :
    let s := writing 0x008 0x00000010 txReady
    s.inbox.head? ≠ some .powerCycle ∧ gives (step s) (fun t => t.maxlen = 64 ∧ t.txOut = goodFrame) := by decide +kernel
theorem witness_WrbufWritesItsBytes :
    HostLine.wellFormed (.wrbuf .rx goodFrame) = true ∧ HostLine.wellFormed (.wrbuf .tx []) = true := by decide
theorem witness_ResetEstablishesResetState :
    (facing (.reset none) fullMailbox).inbox = .reset none :: [] ∧
    gives (step (facing (.reset none) fullMailbox)) (fun t => t.resetCount = 1) := by decide
theorem witness_PowerCycleIsResetWithEmptyTxOut : (facing .powerCycle txReady).inbox = .powerCycle :: [] := by decide

/-- A state with a pending save and stored bytes that keeps the whole invariant. -/
def kept : State := { inited 5 with seq := .savePending, candidate := 6, txbuf := [(0, 0xAA), (59, 0xBB)] }

theorem test_kept_inv : Inv kept :=
  ⟨⟨by decide, by decide, by decide, by decide⟩, ⟨by decide, by decide⟩, ⟨by decide, fun b => by cases b <;> decide⟩⟩
theorem witness_EveryStepKeepsInvariant : Inv kept ∧ ∃ t, step kept = .next t := ⟨test_kept_inv, _, rfl⟩
theorem witness_BusSafeRunsNeverStop : Inv kept ∧ busSafe kept = true := ⟨test_kept_inv, by decide⟩

end Sys2Proof.Tests
end

/-! PROOFS. The block's invariant (Safety.lean) holds after reset and every step keeps it. The invariant has three
parts, and the commands fall into two units (40_commands_common.md R88): a command of the sequencer can touch the first
part only, any other command the mailbox and the buffers only. -/

namespace Sys2Proof.Machine

variable {s t : State}

/-! ### What the invariant reads -/

/-- The fields of the state the invariant reads, every other field at its reset value. -/
def invariantPart (s : State) : State :=
  { State.reset with
    seq := s.seq, inited := s.inited, lastId := s.lastId, candidate := s.candidate, delId := s.delId,
    probeId := s.probeId, mboxFull := s.mboxFull, mboxOverrun := s.mboxOverrun, mboxLen := s.mboxLen,
    maxlen := s.maxlen, txbuf := s.txbuf, rxbuf := s.rxbuf, mboxbuf := s.mboxbuf }

theorem inv_invariantPart_iff : Inv (invariantPart s) ↔ Inv s := by
  constructor <;> rintro ⟨⟨hu, hs, hr, hp⟩, ⟨ho, hf⟩, ⟨hm, hc⟩⟩ <;> exact ⟨⟨hu, hs, hr, hp⟩, ⟨ho, hf⟩, ⟨hm, hc⟩⟩

/-- A change to fields the invariant does not read keeps it. -/
theorem Inv.of_invariantPart_eq (hs : Inv s) (h : invariantPart t = invariantPart s) : Inv t :=
  inv_invariantPart_iff.mp (h ▸ inv_invariantPart_iff.mpr hs)

theorem SequencerInv.withCodecOf (hs : SequencerInv s) (u : State) : SequencerInv (withCodecOf u s) :=
  ⟨hs.uninited, hs.saving, hs.removing, hs.probing⟩

theorem MailboxInv.withSequencerOf (hs : MailboxInv s) (u : State) : MailboxInv (withSequencerOf u s) :=
  ⟨hs.overrun, hs.fits⟩

theorem BufferInv.withSequencerOf (hs : BufferInv s) (u : State) : BufferInv (withSequencerOf u s) :=
  ⟨hs.maxlen, hs.canonical⟩

/-! ### Reset -/

/-- A state with the sequencer idle, LAST_ID 0, the mailbox empty and no byte stored keeps the invariant. -/
theorem inv_of_cleared (hmax : Config.maxlenOk s.maxlen = true) (hseq : s.seq = .idle) (hlast : s.lastId = 0)
    (hover : s.mboxOverrun = false) (hlen : s.mboxLen = 0) (hbuf : ∀ b, s.stored b = []) : Inv s where
  sequencer := ⟨by simp [hseq, hlast], by simp [hseq], by simp [hseq], by simp [hseq]⟩
  mailbox := ⟨by simp [hover], by simp [hlen]⟩
  buffers := ⟨hmax, fun b => by rw [hbuf]; rfl⟩

theorem maxlenOk_iff (n : Nat) : Config.maxlenOk n = true ↔ 4 ≤ n ∧ n ≤ 4096 := by
  simp [Config.maxlenOk]

/-- The MAXLEN that `State.reset` holds is within the bounds of 00_scope.md R5. -/
theorem maxlenOk_configMaxlen : Config.maxlenOk Config.maxlen = true := by
  have h := Config.maxlenAboveLeast.isLt
  rw [maxlenOk_iff, Config.maxlen]
  omega

theorem inv_reset : Inv State.reset :=
  inv_of_cleared maxlenOk_configMaxlen rfl rfl rfl rfl fun b => by cases b <;> rfl

theorem resetBlock_keeps_inv (hs : Inv s) : Inv (resetBlock s) :=
  inv_of_cleared hs.buffers.maxlen rfl rfl rfl rfl fun b => by cases b <;> rfl

theorem powerUp_keeps_inv (hs : Inv s) : Inv (powerUp s) :=
  (resetBlock_keeps_inv hs).of_invariantPart_eq rfl

/-! ### Writes of buffer bytes -/

section
variable (b : BufferId) (i : Nat) (vs : List Byte) (s : State)

@[simp] theorem writeBytes_maxlen : (writeBytes b i vs s).maxlen = s.maxlen := by
  rw [writeBytes_eq_setStored, State.setStored_maxlen]

@[simp] theorem writeBytes_mboxFull : (writeBytes b i vs s).mboxFull = s.mboxFull := by
  rw [writeBytes_eq_setStored, State.setStored_mboxFull]

@[simp] theorem writeBytes_mboxOverrun : (writeBytes b i vs s).mboxOverrun = s.mboxOverrun := by
  rw [writeBytes_eq_setStored, State.setStored_mboxOverrun]

@[simp] theorem writeBytes_mboxLen : (writeBytes b i vs s).mboxLen = s.mboxLen := by
  rw [writeBytes_eq_setStored, State.setStored_mboxLen]

/-- The buffers belong to the frame codec: writing their bytes leaves the sequencer's registers alone. -/
theorem writeBytes_eq_withCodecOf : writeBytes b i vs s = withCodecOf (writeBytes b i vs s) s := by
  rw [writeBytes_eq_setStored]
  cases b <;> rfl

end

theorem writeBytes_keeps_bufferInv (b : BufferId) (i : Nat) (vs : List Byte) (hs : BufferInv s) :
    BufferInv (writeBytes b i vs s) where
  maxlen := by rw [writeBytes_maxlen]; exact hs.maxlen
  canonical b' := writeBytes_wf b b' i vs s (hs.canonical b')

theorem writeBytes_keeps_inv (b : BufferId) (i : Nat) (vs : List Byte) (hs : Inv s) : Inv (writeBytes b i vs s) where
  sequencer := by rw [writeBytes_eq_withCodecOf]; exact hs.sequencer.withCodecOf _
  mailbox := ⟨by simpa using hs.mailbox.overrun, by simpa using hs.mailbox.fits⟩
  buffers := writeBytes_keeps_bufferInv b i vs hs.buffers

/-! ### The units (40_commands_common.md R88) -/

/-- What the writes of DELETE_REMOVED can do: end the delete, or start the scan below LAST_ID. -/
theorem afterRemoval_cases (a : Byte) (s : State) :
    afterRemoval a s = { s with seq := .idle } ∨
    (s.delId = s.lastId ∧ afterRemoval a s = scanAt (s.lastId - 1) s) := by
  unfold afterRemoval
  split
  · exact .inl rfl
  · split
    · exact .inl rfl
    · next hd => exact .inr ⟨not_not.mp hd, rfl⟩

/-- What the writes of PROBE_RESULT can do: settle on the probed identifier, or move the cursor down. -/
theorem afterProbe_cases (a : Byte) (s : State) :
    afterProbe a s = { s with lastId := s.probeId, seq := .idle } ∨ afterProbe a s = scanAt (s.probeId - 1) s := by
  unfold afterProbe
  split
  · exact .inl rfl
  · exact .inr rfl

theorem scanAt_eq_withSequencerOf (cursor : Half) (s : State) :
    scanAt cursor s = withSequencerOf (scanAt cursor s) s := by
  rcases scanAt_cases cursor s with ⟨_, h⟩ | ⟨_, h⟩ <;> rw [h] <;> rfl

/-- The sequencer's commands write the sequencer's registers only. -/
theorem commandWrites_eq_withSequencerOf {i : Instr} {q : SeqState} (hq : requiredSeq i = some q) (s : State) :
    commandWrites i s = withSequencerOf (commandWrites i s) s := by
  cases i with
  | deleteRemoved a =>
    rcases afterRemoval_cases a s with h | ⟨_, h⟩ <;> rw [commandWrites, h]
    · rfl
    · exact scanAt_eq_withSequencerOf _ s
  | probeResult a =>
    rcases afterProbe_cases a s with h | h <;> rw [commandWrites, h]
    · rfl
    · exact scanAt_eq_withSequencerOf _ s
  | nop | crcInit | crcUpdate | txSend | rxDecode | mboxAck => cases hq
  | _ => rfl

/-- The other commands write none of the sequencer's registers. -/
theorem commandWrites_eq_withCodecOf {i : Instr} (hq : requiredSeq i = none) (s : State) :
    commandWrites i s = withCodecOf (commandWrites i s) s := by
  cases i with
  | nop | crcInit | crcUpdate | txSend | mboxAck => rfl
  | rxDecode b =>
    rw [commandWrites, decodeFrame_eq]
    rfl
  | _ => cases hq

/-! ### The checks of a sequencer command that pass -/

theorem firstFailure_needSeq_none {q : SeqState} {rest : List (Bool × ResultCode)} :
    firstFailure (needSeq q s :: rest) = none ↔ s.seq = q ∧ firstFailure rest = none := by
  rw [needSeq, firstFailure_cons_none, decide_eq_false_iff_not, not_not]

theorem firstFailure_needInited_none {rest : List (Bool × ResultCode)} :
    firstFailure (needInited s :: rest) = none ↔ s.inited = true ∧ firstFailure rest = none := by
  rw [needInited, firstFailure_cons_none, Bool.not_eq_false']

/-- A command whose checks pass runs in the state the SEQ column of 43_id_sequencer.md R136 gives it. -/
theorem seq_of_checks_pass {i : Instr} {q : SeqState} (hq : requiredSeq i = some q)
    (hc : firstFailure (commandChecks i s) = none) : s.seq = q := by
  cases i <;> cases hq <;> exact (firstFailure_needSeq_none.mp hc).1

/-! ### The sequencer's part -/

/-- In an idle state only LAST_ID before the first INIT_END is constrained. -/
theorem sequencerInv_of_idle (hseq : s.seq = .idle) (hlast : s.inited = false → s.lastId = 0) : SequencerInv s where
  uninited hi := ⟨.inl hseq, hlast hi⟩
  saving h := nomatch hseq.symm.trans h
  removing h := nomatch hseq.symm.trans h
  probing h := nomatch hseq.symm.trans h

/-- A pending save or delete means an init scan has completed. -/
theorem SequencerInv.inited_of_pending (hs : SequencerInv s) (hidle : s.seq ≠ .idle) (hscan : s.seq ≠ .initScan) :
    s.inited = true := by
  by_contra hi
  rcases (hs.uninited (by simpa using hi)).1 with h | h
  · exact hidle h
  · exact hscan h

/-- A scan step below LAST_ID, after the removal of LAST_ID, keeps the sequencer's part. -/
theorem scanAt_sequencerInv {cursor : Half} (hi : s.inited = true) (hd : s.delId = s.lastId)
    (hlt : cursor < s.lastId) : SequencerInv (scanAt cursor s) := by
  rcases scanAt_cases cursor s with ⟨_, h⟩ | ⟨h0, h⟩ <;> rw [h]
  · exact sequencerInv_of_idle rfl fun _ => rfl
  · exact ⟨(nomatch hi.symm.trans ·), nofun, nofun, fun _ => ⟨hd, h0, hlt⟩⟩

theorem afterRemoval_sequencerInv (hs : SequencerInv s) (hq : s.seq = .deleteRemove) (a : Byte) :
    SequencerInv (afterRemoval a s) := by
  rcases afterRemoval_cases a s with h | ⟨hd, h⟩ <;> rw [h]
  · exact sequencerInv_of_idle rfl fun hi => (hs.uninited hi).2
  · have hne : s.lastId ≠ 0 := hd ▸ hs.removing hq
    exact scanAt_sequencerInv (hs.inited_of_pending (by simp [hq]) (by simp [hq])) hd (by bv_omega)

theorem afterProbe_sequencerInv (hs : SequencerInv s) (hq : s.seq = .deleteProbe) (a : Byte) :
    SequencerInv (afterProbe a s) := by
  have hi : s.inited = true := hs.inited_of_pending (by simp [hq]) (by simp [hq])
  obtain ⟨hd, hne, hlt⟩ := hs.probing hq
  rcases afterProbe_cases a s with h | h <;> rw [h]
  · exact sequencerInv_of_idle rfl (nomatch hi.symm.trans ·)
  · exact scanAt_sequencerInv hi hd (by bv_omega)

/-- The writes of a sequencer command whose checks pass keep the sequencer's part. -/
theorem commandWrites_sequencerInv_of_required {i : Instr} {q : SeqState} (hq : requiredSeq i = some q)
    (hs : SequencerInv s) (hc : firstFailure (commandChecks i s) = none) : SequencerInv (commandWrites i s) := by
  have hseq : s.seq = q := seq_of_checks_pass hq hc
  cases i with
  | nop | crcInit | crcUpdate | txSend | rxDecode | mboxAck => cases hq
  | initBegin => exact ⟨fun h => ⟨.inr rfl, (hs.uninited h).2⟩, nofun, nofun, nofun⟩
  | initFeed b => exact ⟨hs.uninited, hs.saving, hs.removing, hs.probing⟩
  | initEnd => exact sequencerInv_of_idle rfl nofun
  | saveBegin =>
    obtain ⟨_, hc⟩ := firstFailure_needSeq_none.mp hc
    obtain ⟨hi, hc⟩ := firstFailure_needInited_none.mp hc
    have hlast : s.lastId ≠ 0xFFFF := by simpa using hc
    exact ⟨(nomatch hi.symm.trans ·), fun _ => ⟨hlast, rfl⟩, nofun, nofun⟩
  | saveCommit =>
    cases hq
    have hi : s.inited = true := hs.inited_of_pending (by simp [hseq]) (by simp [hseq])
    exact sequencerInv_of_idle rfl (nomatch hi.symm.trans ·)
  | saveAbort a => exact sequencerInv_of_idle rfl fun h => (hs.uninited h).2
  | deleteBegin b =>
    obtain ⟨_, hc⟩ := firstFailure_needSeq_none.mp hc
    obtain ⟨hi, hc⟩ := firstFailure_needInited_none.mp hc
    have hb : b ≠ 0 := by
      rintro rfl
      simp [notIdentifier] at hc
    exact ⟨(nomatch hi.symm.trans ·), nofun, fun _ => hb, nofun⟩
  | deleteRemoved a => cases hq; exact afterRemoval_sequencerInv hs hseq a
  | probeResult a => cases hq; exact afterProbe_sequencerInv hs hseq a
  | latest => exact ⟨hs.uninited, hs.saving, hs.removing, hs.probing⟩

theorem commandWrites_sequencerInv {i : Instr} (hs : SequencerInv s)
    (hc : firstFailure (commandChecks i s) = none) : SequencerInv (commandWrites i s) := by
  cases hq : requiredSeq i with
  | none => rw [commandWrites_eq_withCodecOf hq]; exact hs.withCodecOf _
  | some q => exact commandWrites_sequencerInv_of_required hq hs hc

/-! ### The mailbox and the buffers -/

theorem framePayload_length (f : List Byte) : (framePayload f).length = f.length - 4 := by
  simp only [framePayload, frameBody, List.length_drop, List.length_take]
  omega

/-- Delivering a payload that fits MBOXBUF keeps the mailbox's part. -/
theorem deliver_mailboxInv {payload : List Byte} (h : payload.length ≤ s.maxlen - 4) :
    MailboxInv (deliver payload s) where
  overrun _ := rfl
  fits := by
    simp only [deliver, writeBytes_maxlen, BitVec.toNat_ofNat]
    exact (Nat.mod_le _ _).trans h

theorem deliver_bufferInv (payload : List Byte) (hs : BufferInv s) : BufferInv (deliver payload s) :=
  have h := writeBytes_keeps_bufferInv .mbox 0 payload hs
  ⟨h.maxlen, h.canonical⟩

/-- Whatever becomes of a frame no longer than MAXLEN, the mailbox's part is kept. -/
theorem decodeFrame_mailboxInv {f : List Byte} (hs : MailboxInv s) (hf : f.length ≤ s.maxlen) :
    MailboxInv (decodeFrame f s) := by
  rcases decodeFrame_cases f s with ⟨r, _, _, h⟩ | ⟨h, _⟩ <;> rw [h]
  · exact ⟨hs.overrun, hs.fits⟩
  · rcases judgeFrame_cases f { s with rxCalc := frameCalc f, rxRecv := frameRecv f } with
      ⟨r, _, _, h⟩ | ⟨hfull, h⟩ | ⟨_, _, _, h⟩ <;> rw [h]
    · exact ⟨hs.overrun, hs.fits⟩
    · exact ⟨fun _ => hfull, hs.fits⟩
    · have hp : (framePayload f).length ≤ s.maxlen - 4 := by rw [framePayload_length]; omega
      have hd := deliver_mailboxInv (s := { s with rxCalc := frameCalc f, rxRecv := frameRecv f }) hp
      exact ⟨hd.overrun, hd.fits⟩

theorem decodeFrame_bufferInv (f : List Byte) (hs : BufferInv s) : BufferInv (decodeFrame f s) := by
  rcases decodeFrame_cases f s with ⟨r, _, _, h⟩ | ⟨h, _⟩ <;> rw [h]
  · exact ⟨hs.maxlen, hs.canonical⟩
  · rcases judgeFrame_cases f { s with rxCalc := frameCalc f, rxRecv := frameRecv f } with
      ⟨r, _, _, h⟩ | ⟨_, h⟩ | ⟨_, _, _, h⟩ <;> rw [h]
    · exact ⟨hs.maxlen, hs.canonical⟩
    · exact ⟨hs.maxlen, hs.canonical⟩
    · have hd := deliver_bufferInv (s := { s with rxCalc := frameCalc f, rxRecv := frameRecv f }) (framePayload f)
        ⟨hs.maxlen, hs.canonical⟩
      exact ⟨hd.maxlen, hd.canonical⟩

theorem commandWrites_mailboxInv {i : Instr} (hs : MailboxInv s)
    (hc : firstFailure (commandChecks i s) = none) : MailboxInv (commandWrites i s) := by
  cases hq : requiredSeq i with
  | some q => rw [commandWrites_eq_withSequencerOf hq]; exact hs.withSequencerOf _
  | none =>
    cases i with
    | nop | crcInit | crcUpdate | txSend => exact ⟨hs.overrun, hs.fits⟩
    | rxDecode b =>
      have hlen : b.toNat ≤ s.maxlen := by simpa [commandChecks, lengthTooLong] using hc
      exact decodeFrame_mailboxInv hs (by rwa [bufBytes_length])
    | mboxAck => exact ⟨nofun, hs.fits⟩
    | _ => cases hq

theorem commandWrites_bufferInv (i : Instr) (hs : BufferInv s) : BufferInv (commandWrites i s) := by
  cases hq : requiredSeq i with
  | some q => rw [commandWrites_eq_withSequencerOf hq]; exact hs.withSequencerOf _
  | none =>
    cases i with
    | nop | crcInit | crcUpdate | txSend | mboxAck => exact ⟨hs.maxlen, hs.canonical⟩
    | rxDecode b => exact decodeFrame_bufferInv _ hs
    | _ => cases hq

/-! ### Every step -/

theorem setResult_keeps_inv (c : ResultCode) (hs : Inv s) : Inv (s.setResult c) := hs.of_invariantPart_eq rfl

/-- Every command keeps the invariant, whether a check fails or its writes happen. -/
theorem exec_keeps_inv {i : Instr} (hs : Inv s) (h : exec i s = .next t) : Inv t := by
  rcases exec_cases h with ⟨c, _, rfl⟩ | ⟨hc, rfl⟩
  · exact setResult_keeps_inv c hs
  · exact setResult_keeps_inv _ ⟨commandWrites_sequencerInv hs.sequencer hc,
      commandWrites_mailboxInv hs.mailbox hc, commandWrites_bufferInv i hs.buffers⟩

/-- A host write to a register other than CMD reaches no field the invariant reads (10_state.md R43, R44). -/
theorem writeReg_invariantPart (r : Reg) (w : Word) (s : State) :
    invariantPart (writeReg r w s) = invariantPart s := by
  cases r <;> rfl

theorem AccessEffect.keeps_inv {a : HostAccess} (hs : Inv s) (h : AccessEffect a s t) : Inv t := by
  have hdone : Inv { s with response := .writeDone } := hs.of_invariantPart_eq rfl
  cases h with
  | illegal h => exact h ▸ setResult_keeps_inv _ hdone
  | read v h => exact hs.of_invariantPart_eq (h ▸ rfl)
  | register r w _ _ h => exact h ▸ hdone.of_invariantPart_eq (writeReg_invariantPart r w _)
  | buffer b i w _ h => exact h ▸ writeBytes_keeps_inv b i (unpackWord w) hdone
  | ignored h => exact h ▸ hdone

theorem step_keeps_inv (hs : Inv s) (h : step s = .next t) : Inv t := by
  have htaken (rest : List HostEvent) : Inv { s with inbox := rest } := hs.of_invariantPart_eq rfl
  cases step_kinds h with
  | wait _ h => exact h ▸ hs
  | command e rest i _ _ _ h =>
    have hdone : Inv { s with inbox := rest, response := .writeDone } := hs.of_invariantPart_eq rfl
    exact exec_keeps_inv hdone h
  | access a rest _ _ _ h => exact h.keeps_inv (htaken rest)
  | reset d rest _ _ _ h => exact h ▸ resetBlock_keeps_inv (htaken rest)
  | power rest _ _ _ h => exact h ▸ powerUp_keeps_inv (htaken rest)

/-! ### The statements -/

/-- Settles O58: right after power-up the sequencer is idle, the mailbox empty and no byte stored. -/
theorem resetStateKeepsInvariant : Obligations.ResetStateKeepsInvariant := inv_reset

/-- Settles O59, by the kinds of a step and, for a command, the unit it belongs to. -/
theorem everyStepKeepsInvariant : Obligations.EveryStepKeepsInvariant := fun _ _ => step_keeps_inv

end Sys2Proof.Machine

/-! PROOFS. Fields of register words: a field placed in a word reads back in its own place and is 0 in every other
(30_encoding.md R70, 10_state.md R45), and a field taken from a word and placed again is the word under the field's mask
(10_state.md R43). -/

namespace Sys2Proof

variable {n : Nat}

/-! ### Placed fields read back -/

theorem getElem_fieldAt (v : BitVec n) (lo i : Nat) (hi : i < 32) :
    (fieldAt v lo)[i] = (decide (lo ≤ i) && v.getLsbD (i - lo)) := by
  rw [← BitVec.getLsbD_eq_getElem, getLsbD_fieldAt]
  simp [hi]

/-- A flag's bit. -/
@[simp] theorem getElem_fieldAt_ofBool (b : Bool) (lo : Nat) (h : lo < 32) :
    (fieldAt (BitVec.ofBool b) lo)[lo] = b := by
  simp [getElem_fieldAt]

@[simp] theorem getElem_fieldAt_apart (v : BitVec n) (lo i : Nat) (hi : i < 32) (h : i < lo ∨ lo + n ≤ i) :
    (fieldAt v lo)[i] = false := by
  rw [getElem_fieldAt]
  rcases h with h | h
  · simp [h]
  · simp [BitVec.getLsbD_of_ge v (i - lo) (by omega)]

@[simp] theorem extractLsb'_fieldAt_same (v : BitVec n) (lo : Nat) (h : lo + n ≤ 32) :
    (fieldAt v lo).extractLsb' lo n = v := by
  apply BitVec.eq_of_getLsbD_eq
  intro i hi
  simp [getElem_fieldAt, hi, show lo + i < 32 by omega]

@[simp] theorem extractLsb'_fieldAt_apart (v : BitVec n) (lo p k : Nat) (h : p + k ≤ lo ∨ lo + n ≤ p) :
    (fieldAt v lo).extractLsb' p k = 0 := by
  apply BitVec.eq_of_getLsbD_eq
  intro i hi
  rcases h with h | h
  · simp [getLsbD_fieldAt, show ¬ lo ≤ p + i by omega]
  · simp [getLsbD_fieldAt, BitVec.getLsbD_of_ge v (p + i - lo) (by omega)]

/-! ### Fields of a word placed again -/

theorem fieldAt_extractLsb' (w : Word) (lo n : Nat) :
    fieldAt (w.extractLsb' lo n) lo = w &&& fieldAt (BitVec.allOnes n) lo := by
  apply BitVec.eq_of_getLsbD_eq
  intro i hi
  by_cases h : lo ≤ i
  · simp [getElem_fieldAt, hi, h, Bool.and_comm]
  · simp [getElem_fieldAt, hi, h]

/-- A flag is a field of one bit. -/
theorem ofBool_getLsbD (w : Word) (i : Nat) : BitVec.ofBool (w.getLsbD i) = w.extractLsb' i 1 := by
  apply BitVec.eq_of_getLsbD_eq
  intro j hj
  obtain rfl : j = 0 := by omega
  simp

end Sys2Proof

/-! PROOFS. The registers as the host reads and writes them (10_state.md R16 to R46), what every command leaves alone
(R36, R39, R40), and the statements about the state of the block. -/

namespace Sys2Proof.Machine

variable {s t : State}

/-! ### The registers of 10_state.md R15 in the window -/

/-- No register lies beyond PARAM, at 0x03C. -/
theorem registerAt_eq_none {n : Nat} (h : 0x040 ≤ n) : registerAt n = none := by
  rw [Option.eq_none_iff_forall_ne_some]
  intro r hr
  have hn : (registerOffset r).toNat < 0x040 := by cases r <;> decide
  have := registerAt_some hr
  omega

/-- The register region holds registers and reserved offsets only (20_memory.md R54). -/
theorem placeAt_of_lt {o : Offset} (h : o.toNat < 0x1000) :
    (∃ r, placeAt o = .register r) ∨ placeAt o = .reserved := by
  simp only [placeAt, Nat.div_eq_of_lt h]
  cases registerAt o.toNat with
  | some r => exact .inl ⟨r, rfl⟩
  | none => exact .inr rfl

theorem placeAt_reserved {o : Offset} (h : 0x040 ≤ o.toNat) (h' : o.toNat < 0x1000) : placeAt o = .reserved := by
  simp only [placeAt, Nat.div_eq_of_lt h', registerAt_eq_none h]

theorem placeAt_mbox {o : Offset} (h : 0x3000 ≤ o.toNat) : placeAt o = .buffer .mbox (o.toNat % 0x1000) := by
  have hq : o.toNat / 0x1000 = 3 := by omega
  simp only [placeAt, hq]

/-! ### Reads -/

theorem readWord_register (r : Reg) (s : State) : readWord (registerOffset r) s = readReg r s := by
  simp only [readWord, placeAt_registerOffset]

theorem readWord_reserved {o : Offset} (h : placeAt o = .reserved) (s : State) : readWord o s = 0 := by
  simp only [readWord, h]

/-- No register shows the model's own inbox. -/
theorem readReg_inbox (r : Reg) (s : State) (rest : List HostEvent) :
    readReg r { s with inbox := rest } = readReg r s := by
  cases r <;> rfl

/-! ### Writes -/

theorem writeCmd_of_decode {w : Word} {i : Instr} (h : decode w = .ok i) (s : State) : writeCmd w s = exec i s := by
  simp only [writeCmd, h]

theorem writeWord_register {r : Reg} (hr : r ≠ .cmd) (w : Word) (s : State) :
    writeWord (registerOffset r) w s = .next (writeReg r w s) := by
  simp only [writeWord, placeAt_registerOffset]

theorem writeWord_reserved {o : Offset} (h : placeAt o = .reserved) (w : Word) (s : State) :
    writeWord o w s = .next s := by
  simp only [writeWord, h]

theorem writeWord_mbox {o : Offset} {i : Nat} (h : placeAt o = .buffer .mbox i) (w : Word) (s : State) :
    writeWord o w s = .next s := by
  simp only [writeWord, h]

/-- A write to a register that R15's table marks RO is ignored (10_state.md R44). -/
theorem writeReg_readOnly {r : Reg} (h : (registerOffset r).toNat = 0x00C ∨ 0x018 ≤ (registerOffset r).toNat)
    (w : Word) (s : State) : writeReg r w s = s := by
  cases r with
  | ctrl | rxCfg | crc | txHdr => exact absurd h (by decide)
  | _ => rfl

theorem writeReg_result (r : Reg) (w : Word) (s : State) : (writeReg r w s).result = s.result := by cases r <;> rfl

theorem writeReg_maxlen (r : Reg) (w : Word) (s : State) : (writeReg r w s).maxlen = s.maxlen := by cases r <;> rfl

theorem writeReg_txOut (r : Reg) (w : Word) (s : State) : (writeReg r w s).txOut = s.txOut := by cases r <;> rfl

theorem writeBufferWord_result (b : BufferId) (i : Nat) (w : Word) (s : State) :
    (writeBufferWord b i w s).result = s.result := by
  rw [writeBufferWord, writeBytes_eq_setStored, State.setStored_result]

theorem writeBufferWord_maxlen (b : BufferId) (i : Nat) (w : Word) (s : State) :
    (writeBufferWord b i w s).maxlen = s.maxlen :=
  writeBytes_maxlen b i _ s

theorem writeBufferWord_txOut (b : BufferId) (i : Nat) (w : Word) (s : State) :
    (writeBufferWord b i w s).txOut = s.txOut := by
  rw [writeBufferWord, writeBytes_eq_setStored, State.setStored_txOut]

/-- A performed write away from CMD leaves STATUS.RESULT alone (10_state.md R46). -/
theorem writeWord_result {o : Offset} {w : Word} (ho : o ≠ 0x008) (h : writeWord o w s = .next t) :
    t.result = s.result := by
  rcases writeWord_cases h with ⟨hp, _⟩ | ⟨r, _, _, rfl⟩ | ⟨b, i, _, _, rfl⟩ | ⟨_, rfl⟩
  · exact absurd (placeAt_register hp) ho
  · exact writeReg_result r w s
  · exact writeBufferWord_result b i w s
  · rfl

/-! ### Reading back what a write to a RW register set (10_state.md R43) -/

theorem readReg_writeReg_ctrl (w : Word) (s : State) : readReg .ctrl (writeReg .ctrl w s) = w &&& 0x0000FF07 := by
  simp only [readReg, writeReg, ctrlWord, ctrlFields, ofBool_getLsbD, fieldAt_extractLsb', ← BitVec.and_or_distrib_left]
  rfl

theorem readReg_writeReg_rxCfg (w : Word) (s : State) : readReg .rxCfg (writeReg .rxCfg w s) = w &&& 0x0000FFFF := by
  simp only [readReg, writeReg, rxCfgWord, rxCfgFields, fieldAt_extractLsb', ← BitVec.and_or_distrib_left]
  rfl

theorem readReg_writeReg_crc (w : Word) (s : State) : readReg .crc (writeReg .crc w s) = w &&& 0x0000FFFF := by
  simp only [readReg, writeReg, lowHalfWord, fieldAt_extractLsb']
  rfl

theorem readReg_writeReg_txHdr (w : Word) (s : State) : readReg .txHdr (writeReg .txHdr w s) = w := by
  simp only [readReg, writeReg, txHdrWord, txHdrFields, fieldAt_extractLsb', ← BitVec.and_or_distrib_left]
  exact BitVec.and_allOnes

/-! ### What the commands leave alone -/

/-- No command writes MAXLEN (10_state.md R36). -/
theorem commandWrites_maxlen (i : Instr) (s : State) : (commandWrites i s).maxlen = s.maxlen := by
  cases hq : requiredSeq i with
  | some q => rw [commandWrites_eq_withSequencerOf hq]; rfl
  | none => rw [commandWrites_eq_withCodecOf hq]; rfl

/-- No command but TX_SEND emits a byte (10_state.md R40). -/
theorem commandWrites_txOut {i : Instr} (hi : i ≠ .txSend) (s : State) : (commandWrites i s).txOut = s.txOut := by
  cases hq : requiredSeq i with
  | some q => rw [commandWrites_eq_withSequencerOf hq]; rfl
  | none =>
    cases i with
    | nop | crcInit | crcUpdate | mboxAck => rfl
    | txSend => exact absurd rfl hi
    | rxDecode b => rw [commandWrites, decodeFrame_eq]
    | _ => cases hq

/-- No command writes a buffer byte but RX_DECODE, in MBOXBUF (10_state.md R39). -/
theorem bufByte_commandWrites {i : Instr} {b : BufferId} (h : (∀ n, i ≠ .rxDecode n) ∨ b ≠ .mbox) (j : Nat)
    (s : State) : bufByte b j (commandWrites i s) = bufByte b j s := by
  cases hq : requiredSeq i with
  | some q => rw [commandWrites_eq_withSequencerOf hq]; cases b <;> rfl
  | none =>
    cases i with
    | nop => rfl
    | crcInit | crcUpdate | txSend | mboxAck => cases b <;> rfl
    | rxDecode n =>
      rw [commandWrites, decodeFrame_eq]
      cases b with
      | tx | rx => rfl
      | mbox => exact absurd rfl (h.resolve_left fun hn => hn n rfl)
    | _ => cases hq

theorem exec_maxlen {i : Instr} (h : exec i s = .next t) : t.maxlen = s.maxlen := by
  rcases exec_cases h with ⟨c, _, rfl⟩ | ⟨_, rfl⟩
  · rfl
  · exact commandWrites_maxlen i s

/-- A command appends bytes to TX_OUT, none unless it is TX_SEND (10_state.md R40). -/
theorem exec_txOut {i : Instr} (h : exec i s = .next t) : ∃ l, t.txOut = s.txOut ++ l ∧ (l ≠ [] → i = .txSend) := by
  rcases exec_cases h with ⟨c, _, rfl⟩ | ⟨_, rfl⟩
  · exact ⟨[], by simp, fun hl => absurd rfl hl⟩
  · by_cases hi : i = .txSend
    · subst hi
      exact ⟨withChecksum (txBody s), rfl, fun _ => rfl⟩
    · exact ⟨[], by simp [commandWrites_txOut hi], fun hl => absurd rfl hl⟩

/-! ### What an access that executes no command leaves alone -/

theorem AccessEffect.maxlen_eq {a : HostAccess} (h : AccessEffect a s t) : t.maxlen = s.maxlen := by
  cases h with
  | illegal h | read _ h | ignored h => exact h ▸ rfl
  | register r w _ _ h => rw [h, writeReg_maxlen]
  | buffer b i w _ h => rw [h, writeBufferWord_maxlen]

theorem AccessEffect.txOut_eq {a : HostAccess} (h : AccessEffect a s t) : t.txOut = s.txOut := by
  cases h with
  | illegal h | read _ h | ignored h => exact h ▸ rfl
  | register r w _ _ h => rw [h, writeReg_txOut]
  | buffer b i w _ h => rw [h, writeBufferWord_txOut]

/-! ### Every step -/

/-- No step changes MAXLEN, a reset and a power cycle included (10_state.md R36). -/
theorem step_maxlen (h : step s = .next t) : t.maxlen = s.maxlen := by
  cases step_kinds h with
  | wait _ h => rw [h]
  | command _ _ _ _ _ _ h => exact (exec_maxlen h).trans rfl
  | access _ _ _ _ _ h => exact h.maxlen_eq.trans rfl
  | reset _ _ _ _ _ h | power _ _ _ _ h => rw [h]; rfl

/-- A step other than a power cycle appends bytes to TX_OUT, none unless it executes TX_SEND (10_state.md R40). -/
theorem step_txOut (h : step s = .next t) (hp : s.inbox.head? ≠ some .powerCycle) :
    ∃ l, t.txOut = s.txOut ++ l ∧ (l ≠ [] → nextCommand s = some .txSend) := by
  have hkept (ht : t.txOut = s.txOut) : ∃ l, t.txOut = s.txOut ++ l ∧ (l ≠ [] → nextCommand s = some .txSend) :=
    ⟨[], by rw [ht, List.append_nil], fun hl => absurd rfl hl⟩
  cases step_kinds h with
  | wait _ h => exact hkept (by rw [h])
  | command _ _ _ _ hc _ h =>
    obtain ⟨l, hout, hsend⟩ := exec_txOut h
    exact ⟨l, hout, fun hl => hsend hl ▸ hc⟩
  | access _ _ _ _ _ h => exact hkept h.txOut_eq
  | reset _ _ _ _ _ h => exact hkept (by rw [h]; rfl)
  | power _ hi => exact absurd (by rw [hi]; rfl) hp

/-! ### The statements -/

/-- Settles O43: a failed check writes RESULT alone, and the writes of a command are those of its unit. -/
theorem commandsLeaveBuffersAlone : Obligations.CommandsLeaveBuffersAlone := by
  intro i s t h b j hb
  rcases exec_cases h with ⟨c, _, rfl⟩ | ⟨_, rfl⟩
  · exact bufByte_setResult b j c s
  · rw [bufByte_setResult, bufByte_commandWrites hb]

/-- Settles O46: the word read is the register's that R15 places at the offset. -/
theorem readsChangeNothing : Obligations.ReadsChangeNothing := by
  intro s o rest h ho
  have hreg (r : Reg) (e : o = registerOffset r) : readWord o { s with inbox := rest } = readReg r s := by
    rw [e, readWord_register, readReg_inbox]
  refine ⟨_, step_read h ho, fun p hp e => hreg p.2 (e.trans ?_), hreg .cmd, fun h1 h2 => ?_⟩
  · revert p
    simp [registerOffset]
  · exact readWord_reserved (placeAt_reserved h1 h2) _

/-- Settles O49, register by register: the write sets the fields, and reading back masks the word. -/
theorem registerWritesSetTheirFields : Obligations.RegisterWritesSetTheirFields := by
  intro s w rest
  have hstep (r : Reg) (hr : r ≠ .cmd) :
      step { s with inbox := .access { addr := .window (registerOffset r), width := .w32, op := .write w } :: rest } =
        .next (writeReg r w { s with inbox := rest, response := .writeDone }) := by
    rw [step_write rfl (by cases r <;> rfl), writeWord_register hr]
  exact ⟨⟨_, hstep .ctrl nofun, readReg_writeReg_ctrl w _, rfl⟩,
    ⟨_, hstep .rxCfg nofun, readReg_writeReg_rxCfg w _, rfl⟩,
    ⟨_, hstep .crc nofun, readReg_writeReg_crc w _, rfl⟩,
    ⟨_, hstep .txHdr nofun, readReg_writeReg_txHdr w _, rfl⟩⟩

/-- Settles O50: such an offset names a RO register, nothing, or a byte of MBOXBUF. -/
theorem readOnlyWritesAreIgnored : Obligations.ReadOnlyWritesAreIgnored := by
  intro s o w rest h ho hro
  rw [step_write h ho]
  by_cases hm : 0x3000 ≤ o.toNat
  · exact writeWord_mbox (placeAt_mbox hm) w _
  · rcases placeAt_of_lt (o := o) (by omega) with ⟨r, hr⟩ | hr
    · obtain rfl := placeAt_register hr
      rw [writeWord_register (by rintro rfl; revert hro; decide), writeReg_readOnly (by omega)]
    · exact writeWord_reserved hr w _

/-- Settles O53: a read writes the bus answer alone, and a write away from CMD leaves RESULT. -/
theorem onlyCommandsChangeResult : Obligations.OnlyCommandsChangeResult := by
  intro s t a rest hi hcmd h
  rw [step_event hi] at h
  obtain ⟨o, ho, hacc, ⟨_, rfl⟩ | ⟨w, hop, hw⟩⟩ := performAccess_cases h
  · rfl
  · have hne : o ≠ 0x008 := by
      rintro rfl
      simp [cmdWordOf, writeOf_access ho hacc hop] at hcmd
    exact (writeWord_result hne hw).trans rfl

/-- Settles O54, by the kinds of a step. -/
theorem paramIsConstantAndTxOutAppendOnly : Obligations.ParamIsConstantAndTxOutAppendOnly :=
  fun _ _ h => ⟨step_maxlen h, step_txOut h⟩

/-- Settles O5: 0x008 is CMD's offset, and a write to CMD runs what the decoder gives. -/
theorem stepRunsDecodedCommand : Obligations.StepRunsDecodedCommand := by
  intro s w rest i h hd _
  rw [step_cmdWrite h, writeCmd_of_decode hd]

/-- Settles O47: the fields of STATUS lie apart, and their codes are the tables' numbers. -/
theorem statusWordShowsItsFields : Obligations.StatusWordShowsItsFields := by
  intro s w
  have hw : w = statusWord s := rfl
  simp only [hw, statusWord, BitVec.extractLsb'_or, BitVec.getLsbD_or]
  refine ⟨?_, ?_, ?_, ?_, ?_, ?_, ?_, ?_, ?_⟩
  · cases s.result <;> simp [ResultCode.code]
  · cases s.seq <;> simp [SeqState.code]
  · simp
  · simp
  · simp
  · simp [irqOut]
  · simp
  · cases s.rxResult <;> simp [RxResult.code]
  · simp

/-- Settles O48: the fields of every other register lie apart. -/
theorem registerWordsShowTheirFields : Obligations.RegisterWordsShowTheirFields := by
  intro s
  refine ⟨?_, ?_, ?_, ?_, ?_, ?_⟩
  · simp [readReg, ctrlWord, ctrlFields, BitVec.extractLsb'_or]
  · simp [readReg, rxCfgWord, rxCfgFields, BitVec.extractLsb'_or]
  · simp [readReg, txHdrWord, txHdrFields, BitVec.extractLsb'_or]
  · simp [readReg, rxCrcWord, BitVec.extractLsb'_or]
  · simp [readReg, mboxInfoWord, BitVec.extractLsb'_or]
  · simp [readReg, lowHalfWord]

end Sys2Proof.Machine

/-! PROOFS. The accesses of the host (20_memory.md R50 to R59): which are performed and which are bus errors, how a
buffer window packs bytes in words, and that a write away from CMD, done again, changes nothing. -/

namespace Sys2Proof.Machine

variable {s t : State}

/-! ### Every command and every write answers a next state -/

theorem exec_completes (i : Instr) (s : State) : ∃ t, exec i s = .next t := by
  rw [exec_eq_runCommand]
  exact runCommand_completes ..

theorem writeCmd_completes (w : Word) (s : State) : ∃ t, writeCmd w s = .next t := by
  cases hd : decode w with
  | ok i => exact writeCmd_of_decode hd s ▸ exec_completes i s
  | error e =>
    cases e with
    | unassignedOpcode op => exact ⟨s.setResult .illegalCmd, by simp only [writeCmd, hd, illegalCommand]⟩

/-- A word written to a window the host may write goes to the buffer (20_memory.md R55). -/
theorem writeWord_buffer {o : Offset} {b : BufferId} {i : Nat} (hb : b ≠ .mbox) (h : placeAt o = .buffer b i) (w : Word)
    (s : State) : writeWord o w s = .next (writeBufferWord b i w s) := by
  cases b with
  | tx | rx => simp only [writeWord, h]
  | mbox => exact absurd rfl hb

theorem writeWord_completes (o : Offset) (w : Word) (s : State) : ∃ t, writeWord o w s = .next t := by
  cases hp : placeAt o with
  | register r =>
    obtain rfl := placeAt_register hp
    by_cases hr : r = .cmd
    · subst hr
      exact writeCmd_completes w s
    · exact ⟨_, writeWord_register hr w s⟩
  | reserved => exact ⟨_, writeWord_reserved hp w s⟩
  | buffer b i =>
    by_cases hb : b = .mbox
    · subst hb
      exact ⟨_, writeWord_mbox hp w s⟩
    · exact ⟨_, writeWord_buffer hb hp w s⟩

/-! ### Performed accesses and bus errors (20_memory.md R50 to R53) -/

theorem step_access {a : HostAccess} {rest : List HostEvent} (h : s.inbox = .access a :: rest) :
    step s = performAccess a { s with inbox := rest } :=
  step_event h

theorem accessible_iff (width : AccessWidth) (o : Offset) :
    accessible width o = true ↔ width = .w32 ∧ o.toNat % 4 = 0 := by
  simp [accessible]

/-- An access the block does not perform raises a bus error at its own address. -/
theorem performAccess_not_accessible {a : HostAccess} {o : Offset} (ho : windowOffset a.addr = some o)
    (h : ¬ accessible a.width o = true) (s : State) : performAccess a s = raiseBusError (busAddress a.addr) := by
  simp only [performAccess, ho, if_neg h]

theorem performAccess_completes {a : HostAccess} {o : Offset} (ho : windowOffset a.addr = some o)
    (h : accessible a.width o = true) (s : State) : ∃ t, performAccess a s = .next t := by
  simp only [performAccess, ho, if_pos h]
  cases a.op with
  | read => exact ⟨_, rfl⟩
  | write w => exact writeWord_completes o w _

theorem performAccess_outside {a : HostAccess} (h : windowOffset a.addr = none) (s : State) :
    performAccess a s = raiseBusError (busAddress a.addr) := by
  simp only [performAccess, h]

/-- An access depends on its address through the bus address and the window offset alone. -/
theorem performAccess_congr_addr {x y : BusAddr} (hw : windowOffset x = windowOffset y)
    (hb : busAddress x = busAddress y) (width : AccessWidth) (op : AccessOp) (s : State) :
    performAccess { addr := x, width := width, op := op } s =
      performAccess { addr := y, width := width, op := op } s := by
  simp only [performAccess, hw, hb]

theorem windowOffset_window (o : Offset) : windowOffset (.window o) = some o := rfl

/-- BASE is a multiple of the window's size, so the low 14 bits of BASE + offset are the offset. -/
theorem windowOffset_absolute_base (o : Offset) : windowOffset (.absolute (Config.base + o.toNat)) = some o := by
  have ho := o.isLt
  have hlow : BitVec.ofNat 14 (Config.base + o.toNat) = o := by
    apply BitVec.eq_of_toNat_eq
    rw [BitVec.toNat_ofNat, Config.base]
    omega
  rw [windowOffset, if_pos (by omega), hlow]

theorem windowOffset_absolute_outside {a : Nat} (h : a < Config.base ∨ Config.base + 0x4000 ≤ a) :
    windowOffset (.absolute a) = none := by
  rw [windowOffset, if_neg (by omega)]

/-! ### Buffer words (20_memory.md R55) -/

/-- Byte index `4k` of a buffer stands at offset `4k` of its window (20_memory.md R54). -/
theorem placeAt_buffer (b : BufferId) {k : Nat} (hk : k < 0x400) :
    placeAt (BitVec.ofNat 14 (bufferBase b + 4 * k)) = .buffer b (4 * k) := by
  have hn : (BitVec.ofNat 14 (bufferBase b + 4 * k)).toNat = bufferBase b + 4 * k := by
    rw [BitVec.toNat_ofNat]
    cases b <;> simp only [bufferBase] <;> omega
  have hmod : (bufferBase b + 4 * k) % 0x1000 = 4 * k := by cases b <;> simp only [bufferBase] <;> omega
  have hdiv : (bufferBase b + 4 * k) / 0x1000 = bufferBase b / 0x1000 := by
    cases b <;> simp only [bufferBase] <;> omega
  simp only [placeAt, hn, hmod, hdiv]
  cases b <;> rfl

theorem unpackWord_getD (w : Word) {j : Nat} (hj : j < 4) : (unpackWord w).getD j 0 = w.extractLsb' (8 * j) 8 := by
  match j, hj with
  | 0, _ | 1, _ | 2, _ | 3, _ => rfl

theorem extractLsb'_packWord (v : Nat → Byte) {j : Nat} (hj : j < 4) :
    (packWord (v 0) (v 1) (v 2) (v 3)).extractLsb' (8 * j) 8 = v j := by
  match j, hj with
  | 0, _ | 1, _ | 2, _ | 3, _ => simp [packWord, BitVec.extractLsb'_or]

theorem extractLsb'_readBufferWord (b : BufferId) (i : Nat) (s : State) {j : Nat} (hj : j < 4) :
    (readBufferWord b i s).extractLsb' (8 * j) 8 = bufByte b (i + j) s :=
  extractLsb'_packWord (fun j => bufByte b (i + j) s) hj

theorem bufByte_writeBufferWord (b b' : BufferId) (i k : Nat) (w : Word) (s : State) :
    bufByte b' k (writeBufferWord b i w s) =
      if b' = b ∧ i ≤ k ∧ k < i + 4 ∧ k < s.capacity b then w.extractLsb' (8 * (k - i)) 8 else bufByte b' k s := by
  rw [writeBufferWord, bufByte_writeBytes]
  refine if_ctx_congr Iff.rfl (fun h => ?_) fun _ => rfl
  exact unpackWord_getD w (by omega)

/-- A buffer word is written to TXBUF or RXBUF alone, every register standing. -/
theorem writeBufferWord_eq {b : BufferId} (hb : b ≠ .mbox) (i : Nat) (w : Word) (s : State) :
    writeBufferWord b i w s =
      { s with txbuf := (writeBufferWord b i w s).txbuf, rxbuf := (writeBufferWord b i w s).rxbuf } := by
  rw [writeBufferWord, writeBytes_eq_setStored]
  cases b with
  | tx | rx => rfl
  | mbox => exact absurd rfl hb

/-- No buffer byte shows the model's own inbox and bus answer (entries 5 and 6). -/
theorem bufByte_inbox_response (b : BufferId) (i : Nat) (s : State) (rest : List HostEvent) (r : BusResponse) :
    bufByte b i { s with inbox := rest, response := r } = bufByte b i s := by
  cases b <;> rfl

theorem readWord_buffer {o : Offset} {b : BufferId} {i : Nat} (h : placeAt o = .buffer b i) (s : State) :
    readWord o s = readBufferWord b i s := by
  simp only [readWord, h]

/-! ### The same write again (20_memory.md R59) -/

/-- Storing a byte that stands there already changes nothing; the list need not be canonical, as `store` and `lookup`
walk it alike. -/
theorem Memory.store_of_lookup {m : Memory} {i : Nat} {v : Byte} (h : m.lookup i = some v) : m.store i v = m := by
  induction m with
  | nil => cases h
  | cons c m ih =>
    obtain ⟨j, x⟩ := c
    simp only [Memory.lookup] at h
    simp only [Memory.store]
    split at h
    · next hij =>
      cases h
      rw [if_pos hij, hij]
    · next hij =>
      split at h
      · cases h
      · next hlt => rw [if_neg hij, if_neg hlt, ih h]

theorem State.setStored_stored_self (s : State) (b : BufferId) : s.setStored b (s.stored b) = s := by
  cases b <;> rfl

theorem writeByte_of_lookup {b : BufferId} {i : Nat} {v : Byte}
    (h : i < s.capacity b → (s.stored b).lookup i = some v) : writeByte b i v s = s := by
  unfold writeByte
  split
  · next hi => rw [Memory.store_of_lookup (h hi), State.setStored_stored_self]
  · rfl

theorem lookup_writeByte_same {b : BufferId} {i : Nat} (hi : i < s.capacity b) (v : Byte) :
    ((writeByte b i v s).stored b).lookup i = some v := by
  rw [writeByte, if_pos hi, State.setStored_stored_same, Memory.lookup_store_same]

theorem lookup_writeByte_ne {b : BufferId} {i k : Nat} (hk : k ≠ i) (v : Byte) (s : State) :
    ((writeByte b i v s).stored b).lookup k = (s.stored b).lookup k := by
  unfold writeByte
  split
  · rw [State.setStored_stored_same, Memory.lookup_store_ne _ _ _ _ hk]
  · rfl

/-- Consecutive writes leave the bytes below them alone. -/
theorem lookup_writeBytes_below {b : BufferId} {i k : Nat} (hk : k < i) (vs : List Byte) (s : State) :
    ((writeBytes b i vs s).stored b).lookup k = (s.stored b).lookup k := by
  induction vs generalizing i s with
  | nil => rfl
  | cons v vs ih => rw [writeBytes, ih (by omega), lookup_writeByte_ne (by omega)]

/-- The first byte stands already, as the later ones are written above it; so do the others, by induction. -/
theorem writeBytes_idem (b : BufferId) (i : Nat) (vs : List Byte) (s : State) :
    writeBytes b i vs (writeBytes b i vs s) = writeBytes b i vs s := by
  induction vs generalizing i s with
  | nil => rfl
  | cons v vs ih =>
    have hfirst : writeByte b i v (writeBytes b i (v :: vs) s) = writeBytes b i (v :: vs) s :=
      writeByte_of_lookup fun hi => by
        rw [writeBytes_capacity] at hi
        rw [writeBytes, lookup_writeBytes_below (Nat.lt_succ_self i), lookup_writeByte_same hi]
    rw [writeBytes, hfirst]
    exact ih (i + 1) _

theorem writeReg_idem (r : Reg) (w : Word) (s : State) : writeReg r w (writeReg r w s) = writeReg r w s := by
  cases r <;> rfl

/-! ### The statements -/

/-- Settles O44: such an access is not `accessible`, and every other is performed, the commands included. -/
theorem busErrorExactlyOnUndefinedAccess : Obligations.BusErrorExactlyOnUndefinedAccess := by
  intro s o width op rest h
  rw [step_access h]
  refine ⟨fun hbad => ?_, fun hwidth hal => ?_⟩
  · refine performAccess_not_accessible (windowOffset_window o) (fun hacc => ?_) _
    obtain ⟨hwidth, hal⟩ := (accessible_iff width o).mp hacc
    exact hbad.elim (absurd hwidth) (absurd hal)
  · exact performAccess_completes (windowOffset_window o) ((accessible_iff width o).mpr ⟨hwidth, hal⟩) _

/-- Settles O45: the two ways to name the access agree in offset and bus address, and no other address has an offset. -/
theorem busAddressesReachTheWindow : Obligations.BusAddressesReachTheWindow := by
  intro s width op rest
  refine ⟨fun o => ?_, fun a ha => ?_⟩
  · rw [step_access rfl, step_access rfl]
    have hoff := (windowOffset_absolute_base o).trans (windowOffset_window o).symm
    exact performAccess_congr_addr hoff rfl width op _
  · rw [step_access rfl]
    exact performAccess_outside (windowOffset_absolute_outside ha) _

/-- Settles O51: the offset names byte index 4k, and words are packed and unpacked byte by byte. -/
theorem bufferWordsPackTheirBytes : Obligations.BufferWordsPackTheirBytes := by
  intro s b k w rest hk base size acc
  have hsize : size = s.capacity b := by cases b <;> rfl
  have hbase : base = bufferBase b := by cases b <;> rfl
  have hplace : placeAt (BitVec.ofNat 14 (base + 4 * k)) = .buffer b (4 * k) := hbase ▸ placeAt_buffer b hk
  have hal : (BitVec.ofNat 14 (base + 4 * k)).toNat % 4 = 0 := by
    rw [hbase, BitVec.toNat_ofNat]
    cases b <;> simp only [bufferBase] <;> omega
  refine ⟨fun hb => ⟨_, (step_write rfl hal).trans (writeWord_buffer hb hplace w _), fun b' i => ?_, ?_⟩,
    ⟨_, step_read rfl hal, fun j hj => ?_⟩⟩
  · rw [bufByte_writeBufferWord, bufByte_inbox_response, hsize]
    rfl
  · exact writeBufferWord_eq hb _ w _
  · rw [readWord_buffer hplace, extractLsb'_readBufferWord _ _ _ hj, hsize]
    split
    · exact bufByte_inbox_response b _ s rest s.response
    · next hbeyond => exact bufByte_beyond b _ _ (Nat.not_lt.mp hbeyond)

/-- Settles O52: a register write, and a buffer write byte by byte, done again changes nothing. -/
theorem nonCommandWritesAreIdempotent : Obligations.NonCommandWritesAreIdempotent := by
  intro s t o w ho _ h
  rcases writeWord_cases h with ⟨hp, _⟩ | ⟨r, hr, hp, rfl⟩ | ⟨b, i, hb, hp, rfl⟩ | ⟨_, rfl⟩
  · exact absurd (placeAt_register hp) ho
  · rw [placeAt_register hp, writeWord_register hr, writeReg_idem]
  · rw [writeWord_buffer hb hp, writeBufferWord, writeBufferWord, writeBytes_idem]
  · exact h

end Sys2Proof.Machine

/-! PROOFS. The command word (30_encoding.md R70 to R79). One fact ties the decoder to the encoder, `decode_eq_ok_iff`: a
word is a command exactly when its bits that the command reads are those of the assembler's word. -/

namespace Sys2Proof.Machine

variable {w : Word} {i : Instr}

/-! ### The fields of a word under a mask -/

/-- A mask that covers a field leaves the field's value. -/
theorem extractLsb'_and_of_covers {m : Word} {lo n : Nat} (hm : m.extractLsb' lo n = BitVec.allOnes n) (w : Word) :
    (w &&& m).extractLsb' lo n = w.extractLsb' lo n := by
  rw [BitVec.extractLsb'_and, hm, BitVec.and_allOnes]

/-- Every command reads OP (30_encoding.md R70). -/
theorem opField_readMask (i : Instr) : opField (readMask i) = BitVec.allOnes 8 := by
  cases i <;> simp only [readMask] <;> rfl

theorem opField_of_masked (h : w &&& readMask i = encode i) : opField w = opField (encode i) :=
  h ▸ (extractLsb'_and_of_covers (opField_readMask i) w).symm

theorem aField_of_masked (hread : readMask i = 0x0000FFFF) (h : w &&& readMask i = encode i) :
    aField w = aField (encode i) :=
  h ▸ (extractLsb'_and_of_covers (hread ▸ rfl) w).symm

theorem bField_of_masked (hread : readMask i = 0xFFFF00FF) (h : w &&& readMask i = encode i) :
    bField w = bField (encode i) :=
  h ▸ (extractLsb'_and_of_covers (hread ▸ rfl) w).symm

/-! ### Words put together again from the fields a command reads -/

variable {op : Byte}

theorem masked_op (h : (opField w).toNat = op.toNat) : w &&& 0x000000FF = commandWord op 0 0 := by
  rw [← BitVec.eq_of_toNat_eq h, commandWord, opField, fieldAt_extractLsb']
  simp [fieldAt]

theorem masked_op_a (h : (opField w).toNat = op.toNat) : w &&& 0x0000FFFF = commandWord op (aField w) 0 := by
  rw [← BitVec.eq_of_toNat_eq h, commandWord, opField, aField, fieldAt_extractLsb', fieldAt_extractLsb', BitVec.or_assoc,
    ← BitVec.and_or_distrib_left]
  simp [fieldAt]

theorem masked_op_b (h : (opField w).toNat = op.toNat) : w &&& 0xFFFF00FF = commandWord op 0 (bField w) := by
  rw [← BitVec.eq_of_toNat_eq h, commandWord, opField, bField, fieldAt_extractLsb', fieldAt_extractLsb']
  simp [fieldAt, ← BitVec.and_or_distrib_left]

/-! ### Decoding and encoding -/

/-- OP selects the row of 30_encoding.md R74 and each operand stands in the field its row names. -/
theorem decode_encode (i : Instr) : decode (encode i) = .ok i := by
  cases i <;> simp only [encode, decode, opField_commandWord, aField_commandWord, bField_commandWord] <;> rfl

/-- The rows of 30_encoding.md R74 by what they read: OP alone, OP and A, or OP and B. -/
theorem masked_of_decode (h : decode w = .ok i) : w &&& readMask i = encode i := by
  unfold decode at h
  split at h <;> cases h
  case h_1 hop | h_2 hop | h_4 hop | h_6 hop | h_7 hop | h_9 hop | h_10 hop | h_11 hop | h_16 hop => exact masked_op hop
  case h_3 hop | h_12 hop | h_14 hop | h_15 hop => exact masked_op_a hop
  case h_5 hop | h_8 hop | h_13 hop => exact masked_op_b hop

theorem decode_of_masked (h : w &&& readMask i = encode i) : decode w = .ok i := by
  have hop := opField_of_masked h
  cases i with
  | crcUpdate | saveAbort | deleteRemoved | probeResult =>
    have ha := aField_of_masked rfl h
    simp only [encode, opField_commandWord, aField_commandWord] at hop ha
    simp only [decode, hop, ha]; rfl
  | rxDecode | initFeed | deleteBegin =>
    have hb := bField_of_masked rfl h
    simp only [encode, opField_commandWord, bField_commandWord] at hop hb
    simp only [decode, hop, hb]; rfl
  | _ =>
    simp only [encode, opField_commandWord] at hop
    simp only [decode, hop]; rfl

/-- A word is a command exactly when the bits the command reads are those of its assembler's word
(30_encoding.md R73, R79). -/
theorem decode_eq_ok_iff : decode w = .ok i ↔ w &&& readMask i = encode i :=
  ⟨masked_of_decode, decode_of_masked⟩

/-! ### The opcodes that select no command -/

theorem mem_assignedOpcodes_iff (op : Byte) : op ∈ assignedOpcodes ↔
    ¬ ((0x03 ≤ op.toNat ∧ op.toNat ≤ 0x0F) ∨ (0x13 ≤ op.toNat ∧ op.toNat ≤ 0x1F) ∨ 0x2A ≤ op.toNat) := by
  simp only [assignedOpcodes, List.mem_cons, List.not_mem_nil, or_false, BitVec.toNat_eq, BitVec.ofNat_eq_ofNat,
    BitVec.toNat_ofNat, Nat.reducePow, Nat.reduceMod]
  omega

/-- Everything decoding can answer: a command for an assigned opcode, and the unassigned opcode otherwise. -/
theorem decode_cases (w : Word) :
    (opField w ∈ assignedOpcodes ∧ ∃ i, decode w = .ok i) ∨
    (opField w ∉ assignedOpcodes ∧ decode w = .error (.unassignedOpcode (opField w))) := by
  unfold decode
  rw [mem_assignedOpcodes_iff]
  split
  case h_17 =>
    refine .inr ⟨fun hassigned => ?_, rfl⟩
    simp only [imp_false] at *
    omega
  all_goals exact .inl ⟨by omega, _, rfl⟩

/-- The illegal-command rule (40_commands_common.md R87). -/
theorem writeCmd_of_unassigned {op : Byte} (h : decode w = .error (.unassignedOpcode op)) (s : State) :
    writeCmd w s = .next { s with result := .illegalCmd } := by
  simp only [writeCmd, h]; rfl

/-! ### The statements -/

/-- Settles O1: the fields of the assembler's word read back as they were placed. -/
theorem decodeEncodeRoundTrip : Obligations.DecodeEncodeRoundTrip := fun i _ => decode_encode i

/-- Settles O2: decoding depends on the bits under the command's mask alone, and a write to CMD on what it decodes to. -/
theorem unreadFieldsAreIgnored : Obligations.UnreadFieldsAreIgnored := by
  intro w w' i hd hagree
  have hmask : w &&& readMask i = encode i := decode_eq_ok_iff.mp hd
  have hd' : decode w' = .ok i := decode_eq_ok_iff.mpr (hagree.trans hmask)
  exact ⟨hd', fun s => by rw [writeCmd_of_decode hd, writeCmd_of_decode hd'], hmask.symm⟩

/-- Settles O3: the ranges are the complement of the opcode column. -/
theorem unassignedOpcodesAreIllegal : Obligations.UnassignedOpcodesAreIllegal := by
  intro w op unassigned
  have hranges : opField w ∈ assignedOpcodes ↔ ¬ unassigned := mem_assignedOpcodes_iff (opField w)
  rcases decode_cases w with ⟨hmem, hok⟩ | ⟨hmem, herr⟩
  · exact ⟨fun hun => absurd hun (hranges.mp hmem), fun _ => hok⟩
  · exact ⟨fun _ => ⟨herr, writeCmd_of_unassigned herr⟩, fun hun => absurd (hranges.mpr hun) hmem⟩

/-- Settles O4, by evaluating the decoder on the ten words. -/
theorem specWordsDecode : Obligations.SpecWordsDecode :=
  ⟨rfl, rfl, rfl, rfl, rfl, rfl, rfl, rfl, rfl, rfl⟩

end Sys2Proof.Machine

/-! PROOFS. The WRBUF line of the assembler (30_encoding.md R80): its accesses write words apart from one another, so what
a run of them leaves in a byte is decided by the one word that holds the byte. -/

namespace Sys2Proof.Machine

variable {s : State} {b : BufferId}

/-! ### One word of the line -/

/-- The event that writes word `k` of a WRBUF line. -/
def wrbufEvent (b : BufferId) (bytes : List Byte) (k : Nat) : HostEvent :=
  .access (wrLine (.buf b (4 * k)) (wrbufWord bytes k))

/-- A WRBUF line presents its words in order. -/
theorem expandProgram_wrbuf (b : BufferId) (bytes : List Byte) :
    expandProgram [.wrbuf b bytes] = (List.range ((bytes.length + 3) / 4)).map (wrbufEvent b bytes) := by
  simp only [expandProgram, List.flatMap_singleton, expandLine, List.map_map]
  rfl

/-- "A byte beyond b(n-1) is written as 0x00" (30_encoding.md R80). -/
theorem extractLsb'_wrbufWord (bytes : List Byte) (k : Nat) {j : Nat} (hj : j < 4) :
    (wrbufWord bytes k).extractLsb' (8 * j) 8 = bytes.getD (4 * k + j) 0 :=
  extractLsb'_packWord (fun j => bytes.getD (4 * k + j) 0) hj

theorem bufferOffset_aligned (b : BufferId) (k : Nat) : (BitVec.ofNat 14 (bufferBase b + 4 * k)).toNat % 4 = 0 := by
  rw [BitVec.toNat_ofNat]
  cases b <;> simp only [bufferBase] <;> omega

@[simp] theorem writeBufferWord_inbox (b : BufferId) (i : Nat) (w : Word) (s : State) :
    (writeBufferWord b i w s).inbox = s.inbox := by
  rw [writeBufferWord, writeBytes_eq_setStored, State.setStored_inbox]

@[simp] theorem writeBufferWord_capacity (b b' : BufferId) (i : Nat) (w : Word) (s : State) :
    (writeBufferWord b i w s).capacity b' = s.capacity b' :=
  writeBytes_capacity ..

/-- No capacity depends on the model's own inbox and bus answer (entries 5 and 6). -/
theorem capacity_inbox_response (b : BufferId) (s : State) (rest : List HostEvent) (r : BusResponse) :
    State.capacity { s with inbox := rest, response := r } b = s.capacity b := rfl

theorem step_wrbufEvent {bytes : List Byte} {k : Nat} {rest : List HostEvent} (hb : b ≠ .mbox) (hk : k < 0x400)
    (h : s.inbox = wrbufEvent b bytes k :: rest) :
    step s = .next (writeBufferWord b (4 * k) (wrbufWord bytes k) { s with inbox := rest, response := .writeDone }) :=
  (step_write h (bufferOffset_aligned b k)).trans (writeWord_buffer hb (placeAt_buffer b hk) _ _)

/-- Byte `i` of a buffer stands in word `i / 4`. -/
theorem bufByte_wrbufWord (b b' : BufferId) (bytes : List Byte) (k i : Nat) (s : State) :
    bufByte b' i (writeBufferWord b (4 * k) (wrbufWord bytes k) s) =
      if b' = b ∧ i / 4 = k ∧ i < s.capacity b then bytes.getD i 0 else bufByte b' i s := by
  rw [bufByte_writeBufferWord]
  refine if_ctx_congr (and_congr_right fun _ => by omega) (fun ⟨_, hword, _⟩ => ?_) fun _ => rfl
  rw [extractLsb'_wrbufWord bytes k (by omega)]
  congr 1
  omega

/-! ### All words of the line -/

/-- Running any words of a WRBUF line, in any order, sets the bytes of those words and no other. -/
theorem run_wrbufEvents (bytes : List Byte) (hb : b ≠ .mbox) (ks : List Nat) (hks : ∀ k ∈ ks, k < 0x400)
    (h : s.inbox = ks.map (wrbufEvent b bytes)) :
    ∃ t, Host.Core.run core ks.length s = .next t ∧ t.inbox = [] ∧
      ∀ b' i, bufByte b' i t =
        if b' = b ∧ i / 4 ∈ ks ∧ i < s.capacity b then bytes.getD i 0 else bufByte b' i s := by
  induction ks generalizing s with
  | nil => exact ⟨s, rfl, h, fun b' i => by simp⟩
  | cons k ks ih =>
    obtain ⟨hk, hks⟩ := List.forall_mem_cons.mp hks
    obtain ⟨t, hrun, hinbox, hbytes⟩ := ih hks (writeBufferWord_inbox b (4 * k) (wrbufWord bytes k)
      { s with inbox := ks.map (wrbufEvent b bytes), response := .writeDone })
    refine ⟨t, (run_of_step _ (step_wrbufEvent hb hk h)).trans hrun, hinbox, fun b' i => ?_⟩
    rw [hbytes, bufByte_wrbufWord, bufByte_inbox_response, writeBufferWord_capacity, capacity_inbox_response, ← ite_or]
    exact if_congr (by rw [List.mem_cons]; tauto) rfl rfl

/-- Settles O55: the line's words are 0 to (n+3)/4 - 1, and word `i / 4` is one of them when `i` is below their end. -/
theorem wrbufWritesItsBytes : Obligations.WrbufWritesItsBytes := by
  intro s b bytes hwf n size
  simp only [HostLine.wellFormed, Bool.and_eq_true, decide_eq_true_eq] at hwf
  obtain ⟨hb, hlen⟩ := hwf
  have hsize : size = s.capacity b := by cases b <;> rfl
  have hks : ∀ k ∈ List.range n, k < 0x400 := fun k hk => by
    have := List.mem_range.mp hk
    omega
  obtain ⟨t, hrun, hinbox, hbytes⟩ := run_wrbufEvents bytes hb (List.range n) hks
    (s := { s with inbox := expandProgram [.wrbuf b bytes] }) (expandProgram_wrbuf b bytes)
  rw [List.length_range] at hrun
  refine ⟨by simp [expandLine, n], t, hrun, hinbox, fun b' i => ?_⟩
  have hword : i / 4 ∈ List.range n ↔ i < 4 * n := by
    rw [List.mem_range]
    omega
  simp only [hbytes, hword, hsize, bufByte_inbox_response, capacity_inbox_response]

end Sys2Proof.Machine

/-! PROOFS. The command template and the units (40_commands_common.md R85, R88): what a command writes when a check
fails and when none does, and that each unit's commands commute with replacing the other unit's registers. -/

namespace Sys2Proof.Machine

variable {s t : State}

/-! ### The two ends of a command (40_commands_common.md R85) -/

/-- The codes that stand for a failed check, the check of the opcode itself among them (40_commands_common.md R85,
R87). -/
def checkCodes : List ResultCode :=
  [.illegalCmd, .badState, .notInit, .badArg, .badLength, .payloadTooLarge, .noTransport, .invalidIdentifier, .notFound,
    .idExhausted]

/-- The codes that stand for a failure the host reported, which ends its sequence (43_id_sequencer.md R153, R164). -/
def reportedCodes : List ResultCode := [.encodeError, .writeError, .deleteFailed]

theorem not_mem_reportedCodes_of_mem_checkCodes : ∀ c ∈ checkCodes, c ∉ reportedCodes := by decide

theorem commandChecks_codes_subset (i : Instr) (s : State) : (commandChecks i s).map Prod.snd ⊆ checkCodes := by
  cases i <;> simp [commandChecks, needSeq, needInited, needBoolean, checkCodes]

/-- A failed check ends with one of the check codes. -/
theorem firstFailure_commandChecks_mem {i : Instr} {c : ResultCode}
    (h : firstFailure (commandChecks i s) = some c) : c ∈ checkCodes :=
  commandChecks_codes_subset i s (firstFailure_mem h)

/-- A command whose checks pass ends with OK, or ends its sequence on a failure the host reported and then writes SEQ
alone. -/
theorem commandSuccess_cases (i : Instr) :
    commandSuccess i = .ok ∨
    (commandSuccess i ∈ reportedCodes ∧ ∀ s, commandWrites i s = { s with seq := .idle }) := by
  cases i with
  | saveAbort a =>
    refine .inr ⟨?_, fun s => rfl⟩
    rw [commandSuccess]
    split <;> decide
  | deleteRemoved a =>
    by_cases ha : a = 0
    · refine .inr ⟨?_, fun s => ?_⟩
      · rw [commandSuccess, if_pos ha]; decide
      · rw [commandWrites, afterRemoval, if_pos ha]
    · exact .inl (if_neg ha)
  | _ => exact .inl rfl

/-! ### Commands that commute with a replacement of registers -/

/-- A replacement of registers that leaves a command's checks as they are, and commutes with its writes and with the
write of RESULT, commutes with the command. -/
theorem exec_replaced {i : Instr} {f : State → State} (hresult : ∀ c s, f (s.setResult c) = (f s).setResult c)
    (hchecks : commandChecks i (f s) = commandChecks i s) (hwrites : commandWrites i (f s) = f (commandWrites i s))
    (h : exec i s = .next t) : exec i (f s) = .next (f t) := by
  rcases exec_cases h with ⟨c, hc, rfl⟩ | ⟨hc, rfl⟩ <;> rw [← hchecks] at hc
  · rw [exec_fail hc, hresult]
  · rw [exec_pass hc, hresult, hwrites]

/-! ### The CRC unit and the frame codec do not see the sequencer -/

section
variable (u : State)

theorem bufBytes_withSequencerOf (b : BufferId) (n : Nat) (s : State) :
    bufBytes b n (withSequencerOf u s) = bufBytes b n s := by
  cases b <;> rfl

theorem writeByte_withSequencerOf (b : BufferId) (i : Nat) (v : Byte) (s : State) :
    writeByte b i v (withSequencerOf u s) = withSequencerOf u (writeByte b i v s) := by
  rw [writeByte, writeByte, apply_ite (withSequencerOf u)]
  cases b <;> rfl

theorem writeBytes_withSequencerOf (b : BufferId) (i : Nat) (vs : List Byte) (s : State) :
    writeBytes b i vs (withSequencerOf u s) = withSequencerOf u (writeBytes b i vs s) := by
  induction vs generalizing i s with
  | nil => rfl
  | cons v vs ih => rw [writeBytes, writeByte_withSequencerOf, ih, writeBytes]

theorem deliver_withSequencerOf (payload : List Byte) (s : State) :
    deliver payload (withSequencerOf u s) = withSequencerOf u (deliver payload s) := by
  rw [deliver, writeBytes_withSequencerOf]
  rfl

theorem judgeFrame_withSequencerOf (f : List Byte) (s : State) :
    judgeFrame f (withSequencerOf u s) = withSequencerOf u (judgeFrame f s) := by
  simp only [judgeFrame, deliver_withSequencerOf, apply_ite (withSequencerOf u)]
  rfl

theorem decodeFrame_withSequencerOf (f : List Byte) (s : State) :
    decodeFrame f (withSequencerOf u s) = withSequencerOf u (decodeFrame f s) := by
  simp only [decodeFrame, apply_ite (withSequencerOf u), ← judgeFrame_withSequencerOf]
  rfl

theorem commandChecks_withSequencerOf {i : Instr} (hq : requiredSeq i = none) (s : State) :
    commandChecks i (withSequencerOf u s) = commandChecks i s := by
  cases i with
  | nop | crcInit | crcUpdate | txSend | rxDecode | mboxAck => rfl
  | _ => cases hq

theorem commandWrites_withSequencerOf {i : Instr} (hq : requiredSeq i = none) (s : State) :
    commandWrites i (withSequencerOf u s) = withSequencerOf u (commandWrites i s) := by
  cases i with
  | nop | crcInit | crcUpdate | txSend | mboxAck => rfl
  | rxDecode b => simp only [commandWrites, bufBytes_withSequencerOf, decodeFrame_withSequencerOf]
  | _ => cases hq

/-! ### The sequencer does not see the CRC unit and the frame codec -/

theorem scanAt_withCodecOf (cursor : Half) (s : State) :
    scanAt cursor (withCodecOf u s) = withCodecOf u (scanAt cursor s) := by
  rw [scanAt, scanAt, apply_ite (withCodecOf u)]
  rfl

theorem afterRemoval_withCodecOf (a : Byte) (s : State) :
    afterRemoval a (withCodecOf u s) = withCodecOf u (afterRemoval a s) := by
  simp only [afterRemoval, scanAt_withCodecOf, apply_ite (withCodecOf u)]
  rfl

theorem afterProbe_withCodecOf (a : Byte) (s : State) :
    afterProbe a (withCodecOf u s) = withCodecOf u (afterProbe a s) := by
  simp only [afterProbe, scanAt_withCodecOf, apply_ite (withCodecOf u)]
  rfl

theorem commandChecks_withCodecOf {i : Instr} {q : SeqState} (hq : requiredSeq i = some q) (s : State) :
    commandChecks i (withCodecOf u s) = commandChecks i s := by
  cases i with
  | nop | crcInit | crcUpdate | txSend | rxDecode | mboxAck => cases hq
  | _ => rfl

theorem commandWrites_withCodecOf {i : Instr} {q : SeqState} (hq : requiredSeq i = some q) (s : State) :
    commandWrites i (withCodecOf u s) = withCodecOf u (commandWrites i s) := by
  cases i with
  | nop | crcInit | crcUpdate | txSend | rxDecode | mboxAck => cases hq
  | deleteRemoved a => exact afterRemoval_withCodecOf u a s
  | probeResult a => exact afterProbe_withCodecOf u a s
  | _ => rfl

end

/-! ### The statements -/

/-- Settles O39: these commands' checks and writes commute with replacing the sequencer's registers. -/
theorem codecAndCrcIgnoreSequencer : Obligations.CodecAndCrcIgnoreSequencer := fun _ s _ u hq =>
  exec_replaced (fun _ _ => rfl) (commandChecks_withSequencerOf u hq s) (commandWrites_withSequencerOf u hq s)

/-- Settles O40: these commands' checks and writes commute with replacing the other units' registers and buffers. -/
theorem sequencerIgnoresCodecAndCrc : Obligations.SequencerIgnoresCodecAndCrc := fun _ _ s _ u hq =>
  exec_replaced (fun _ _ => rfl) (commandChecks_withCodecOf u hq s) (commandWrites_withCodecOf u hq s)

/-- Settles O42: the code tells which end of the template the command reached, since no check has the code of a reported
failure and no success code is a check's. -/
theorem commandsCompleteAndFailedChecksChangeOnlyResult :
    Obligations.CommandsCompleteAndFailedChecksChangeOnlyResult := by
  intro i s
  cases hc : firstFailure (commandChecks i s) with
  | some c =>
    have hcode : c ∉ reportedCodes :=
      not_mem_reportedCodes_of_mem_checkCodes c (firstFailure_commandChecks_mem hc)
    exact ⟨_, exec_fail hc, fun _ => rfl, fun hreported => absurd hreported hcode⟩
  | none =>
    refine ⟨_, exec_pass hc, fun hcheck => ?_, fun hreported => ?_⟩ <;>
      rcases commandSuccess_cases i with hok | ⟨hmem, hwrites⟩
    · rw [State.setResult_result, hok] at hcheck
      exact absurd hcheck (by decide)
    · exact absurd hmem (not_mem_reportedCodes_of_mem_checkCodes _ hcheck)
    · rw [State.setResult_result, hok] at hreported
      exact absurd hreported (by decide)
    · rw [hwrites]
      rfl

/-- Settles O6: NOP has no check and writes nothing but its success code. -/
theorem nopWritesOnlyResult : Obligations.NopWritesOnlyResult := fun _ => exec_pass rfl

end Sys2Proof.Machine

/-! PROOFS. Runs without bus errors (60_exceptions.md R177): a step performs the next event and leaves the later ones,
and a step whose event is bus-safe answers a next state. -/

namespace Sys2Proof.Machine

variable {s t : State}

/-! ### What stays of the events -/

theorem commandWrites_inbox (i : Instr) (s : State) : (commandWrites i s).inbox = s.inbox := by
  cases hq : requiredSeq i with
  | some q => rw [commandWrites_eq_withSequencerOf hq]; rfl
  | none => rw [commandWrites_eq_withCodecOf hq]; rfl

theorem exec_inbox {i : Instr} (h : exec i s = .next t) : t.inbox = s.inbox := by
  rcases exec_cases h with ⟨c, _, rfl⟩ | ⟨_, rfl⟩
  · rfl
  · exact commandWrites_inbox i s

theorem writeReg_inbox (r : Reg) (w : Word) (s : State) : (writeReg r w s).inbox = s.inbox := by cases r <;> rfl

theorem AccessEffect.inbox_eq {a : HostAccess} (h : AccessEffect a s t) : t.inbox = s.inbox := by
  cases h with
  | illegal h | read _ h | ignored h => exact h ▸ rfl
  | register r w _ _ h => rw [h, writeReg_inbox]
  | buffer b i w _ h => rw [h, writeBufferWord_inbox]

/-- A step takes the next event, if there is one, and leaves every later event to come (20_memory.md R62). -/
theorem step_inbox (h : step s = .next t) : t.inbox = s.inbox.tail := by
  cases step_kinds h with
  | wait hi h => rw [h, hi]; rfl
  | command _ _ _ hi _ _ h => rw [exec_inbox h, hi]; rfl
  | access _ _ hi _ _ h => rw [h.inbox_eq, hi]; rfl
  | reset _ _ hi _ _ h | power _ hi _ _ h => rw [h, hi]; rfl

/-! ### Bus-safe events -/

/-- A well-formed address reaches an aligned offset of the window: BASE + 0x4000 bounds an absolute one, and its low 14
bits keep its low two (20_memory.md R50, R51). -/
theorem windowOffset_of_wellFormed {x : BusAddr} (h : x.wellFormed = true) :
    ∃ o, windowOffset x = some o ∧ o.toNat % 4 = 0 := by
  cases x with
  | window o => exact ⟨o, rfl, of_decide_eq_true h⟩
  | absolute a =>
    simp only [BusAddr.wellFormed, Bool.and_eq_true, decide_eq_true_eq] at h
    obtain ⟨hwindow, haligned⟩ := h
    refine ⟨BitVec.ofNat 14 a, if_pos hwindow, ?_⟩
    rw [BitVec.toNat_ofNat]
    omega

theorem performAccess_of_wellFormed {a : HostAccess} (h : a.wellFormed = true) (s : State) :
    ∃ t, performAccess a s = .next t := by
  rw [HostAccess.wellFormed, Bool.and_eq_true, decide_eq_true_eq] at h
  obtain ⟨hwidth, haddr⟩ := h
  obtain ⟨o, ho, haligned⟩ := windowOffset_of_wellFormed haddr
  exact performAccess_completes ho ((accessible_iff _ _).mpr ⟨hwidth, haligned⟩) s

theorem performEvent_of_busSafe {e : HostEvent} (h : HostEvent.busSafe e = true) (s : State) :
    ∃ t, performEvent e s = .next t := by
  cases e with
  | access a => exact performAccess_of_wellFormed h s
  | reset d => exact ⟨_, rfl⟩
  | powerCycle => exact ⟨_, rfl⟩

/-- A step with only bus-safe events to come answers a next state, with only bus-safe events still to come. -/
theorem step_of_busSafe (h : busSafe s = true) : ∃ t, step s = .next t ∧ busSafe t = true := by
  obtain ⟨t, ht⟩ : ∃ t, step s = .next t := by
    cases hi : s.inbox with
    | nil => exact ⟨s, step_idle hi⟩
    | cons e rest =>
      rw [busSafe, hi, List.all_cons, Bool.and_eq_true] at h
      obtain ⟨he, _⟩ := h
      exact step_event hi ▸ performEvent_of_busSafe he _
  refine ⟨t, ht, ?_⟩
  rw [busSafe, List.all_eq_true] at h ⊢
  exact fun e he => h e (List.mem_of_mem_tail (step_inbox ht ▸ he))

/-! ### The statement -/

/-- Settles O60, by induction on the number of steps: each keeps the invariant and that all events to come are
bus-safe. -/
theorem busSafeRunsNeverStop : Obligations.BusSafeRunsNeverStop := by
  intro s n hs hsafe
  induction n generalizing s with
  | zero => exact ⟨s, rfl, hs⟩
  | succ n ih =>
    obtain ⟨u, hu, husafe⟩ := step_of_busSafe hsafe
    obtain ⟨t, hrun, ht⟩ := ih u (step_keeps_inv hs hu) husafe
    exact ⟨t, (run_of_step n hu).trans hrun, ht⟩

end Sys2Proof.Machine

/-! PROOFS. The CRC unit (41_checksum.md). The update is linear over exclusive or, and a shift step takes no value but 0
to 0, since the feedback sets the bit that the shift cleared. So the checksum is one-to-one in its start value and in
each byte; with the residue of R100, a byte changed anywhere in a frame is seen (R101). -/

namespace Sys2Proof.Machine

/-! ### The update is linear over exclusive or (R95) -/

/-- What a shift step applies for the bit it shifts out. -/
def shiftFeedback (out : Bool) : Half := if out then crcFeedback else 0

theorem crc16Shift_eq (v : Half) : crc16Shift v = v >>> 1 ^^^ shiftFeedback (v.getLsbD 0) := by
  cases hout : v.getLsbD 0 with
  | true => exact crc16Shift_odd v hout
  | false => exact (crc16Shift_even v hout).trans BitVec.xor_zero.symm

theorem shiftFeedback_xor (a b : Bool) : shiftFeedback (a ^^ b) = shiftFeedback a ^^^ shiftFeedback b := by
  cases a <;> cases b <;> rfl

theorem crc16Shift_xor (v w : Half) : crc16Shift (v ^^^ w) = crc16Shift v ^^^ crc16Shift w := by
  simp only [crc16Shift_eq, BitVec.ushiftRight_xor_distrib, BitVec.getLsbD_xor, shiftFeedback_xor]
  ac_rfl

theorem crc16Shifts_xor (n : Nat) (v w : Half) : crc16Shifts n (v ^^^ w) = crc16Shifts n v ^^^ crc16Shifts n w := by
  induction n generalizing v w with
  | zero => rfl
  | succ n ih => rw [crc16Shifts, crc16Shift_xor, ih, crc16Shifts, crc16Shifts]

theorem crc16Update_xor (v w : Half) (a b : Byte) :
    crc16Update (v ^^^ w) (a ^^^ b) = crc16Update v a ^^^ crc16Update w b := by
  rw [crc16Update, crc16Update, crc16Update, ← crc16Shifts_xor, BitVec.setWidth_xor]
  ac_rfl

/-! ### The checksum is one-to-one in its start value and in each byte -/

/-- After a 1 is shifted out the top bit is the feedback's, set; shifting a 0 out loses nothing. -/
theorem eq_zero_of_crc16Shift_eq_zero {v : Half} (h : crc16Shift v = 0) : v = 0 := by
  cases hout : v.getLsbD 0 with
  | true =>
    rw [crc16Shift_odd v hout] at h
    have hshift : v >>> 1 = crcFeedback := BitVec.xor_eq_zero_iff.mp h
    have htop : (v >>> 1).getLsbD 15 = false := by simp
    rw [hshift] at htop
    exact absurd htop (by decide)
  | false =>
    rw [crc16Shift_even v hout] at h
    apply BitVec.eq_of_getLsbD_eq
    intro i _
    cases i with
    | zero => exact hout
    | succ i => simpa [Nat.add_comm] using congrArg (BitVec.getLsbD · i) h

theorem crc16Shift_injective : Function.Injective crc16Shift := by
  intro v w h
  have hdiff : crc16Shift (v ^^^ w) = 0 := by
    rw [crc16Shift_xor, h]
    exact BitVec.xor_self
  exact BitVec.xor_eq_zero_iff.mp (eq_zero_of_crc16Shift_eq_zero hdiff)

theorem crc16Shifts_eq_iterate (n : Nat) (v : Half) : crc16Shifts n v = crc16Shift^[n] v := by
  induction n generalizing v with
  | zero => rfl
  | succ n ih => rw [crc16Shifts, ih, Function.iterate_succ_apply]

theorem crc16Shifts_injective (n : Nat) : Function.Injective (crc16Shifts n) := by
  rw [funext (crc16Shifts_eq_iterate n)]
  exact crc16Shift_injective.iterate n

theorem crc16Update_left_injective (b : Byte) : Function.Injective (crc16Update · b) :=
  fun _ _ h => (BitVec.xor_left_inj _).mp (crc16Shifts_injective 8 h)

theorem crc16Update_right_injective (v : Half) : Function.Injective (crc16Update v) := by
  intro a b h
  have hwide : a.setWidth 16 = b.setWidth 16 := (BitVec.xor_right_inj v).mp (crc16Shifts_injective 8 h)
  simpa using congrArg (BitVec.setWidth 8) hwide

theorem crc16_left_injective (bytes : List Byte) : Function.Injective (crc16 · bytes) := by
  induction bytes with
  | nil => exact Function.injective_id
  | cons b bytes ih => exact ih.comp (crc16Update_left_injective b)

/-- Two sequences that differ in one byte leave running values that differ from there on. -/
theorem crc16_set_ne {v : Half} {f : List Byte} {i : Nat} {x : Byte} (hi : i < f.length) (hx : x ≠ f.getD i 0) :
    crc16 v (f.set i x) ≠ crc16 v f := by
  induction f generalizing v i with
  | nil => exact absurd hi (Nat.not_lt_zero i)
  | cons y f ih =>
    cases i with
    | zero => exact fun h => hx (crc16Update_right_injective v (crc16_left_injective f h))
    | succ i => exact ih (Nat.lt_of_succ_lt_succ hi) hx

/-! ### The residue (R100) -/

/-- While the bits shifted out are 0 there is no feedback. -/
theorem crc16Shifts_of_low_zero {n : Nat} {v : Half} (h : ∀ i < n, v.getLsbD i = false) :
    crc16Shifts n v = v >>> n := by
  induction n generalizing v with
  | zero => simp [crc16Shifts]
  | succ n ih =>
    have hnext : ∀ i < n, (v >>> 1).getLsbD i = false := fun i hi => by
      simpa using h (1 + i) (by omega)
    rw [crc16Shifts, crc16Shift_even v (h 0 (Nat.succ_pos n)), ih hnext, ← BitVec.shiftRight_add, Nat.add_comm]

theorem crc16Shifts_eight_highByte (hi : Byte) : crc16Shifts 8 (hi.setWidth 16 <<< 8) = hi.setWidth 16 := by
  rw [crc16Shifts_of_low_zero fun i h => by simp [h]]
  apply BitVec.eq_of_getLsbD_eq
  intro i _
  by_cases h : i < 8
  · simp [h]
    omega
  · simp [BitVec.getLsbD_of_ge hi i (by omega)]

/-- A 16-bit value put together from its bytes, as a frame's receiver does (42_frame_codec.md R115). -/
theorem append_eq_or (hi lo : Byte) : (hi ++ lo : Half) = lo.setWidth 16 ||| hi.setWidth 16 <<< 8 := by
  have h : hi ++ lo = hi.setWidth (8 + 8) <<< 8 ||| lo.setWidth (8 + 8) := by
    rw [BitVec.append_def, BitVec.shiftLeftZeroExtend_eq, BitVec.setWidth'_eq]
  exact h.trans (BitVec.or_comm _ _)

theorem highByte_append_lowByte (c : Half) : highByte c ++ lowByte c = c := BitVec.extractLsb'_append_extractLsb'

theorem append_xor_lowByte (hi lo : Byte) : (hi ++ lo : Half) ^^^ lo.setWidth 16 = hi.setWidth 16 <<< 8 := by
  have hwide : lo.setWidth 16 = 0#8 ++ lo := BitVec.setWidth_eq_append (by decide)
  rw [hwide, BitVec.xor_append, BitVec.xor_zero, BitVec.xor_self, append_eq_or]
  simp

/-- The low byte of the running value, fed in, cancels it, and the eight steps bring the high byte down. -/
theorem crc16Update_lowByte (hi lo : Byte) : crc16Update (hi ++ lo) lo = hi.setWidth 16 := by
  rw [crc16Update, append_xor_lowByte, crc16Shifts_eight_highByte]

theorem crc16Update_self (b : Byte) : crc16Update (b.setWidth 16) b = 0 := by
  rw [crc16Update, BitVec.xor_self]
  rfl

/-- A running value is taken to 0 by its own bytes, low byte first. -/
theorem crc16_own_bytes (hi lo : Byte) : crc16 (hi ++ lo) [lo, hi] = 0 := by
  rw [crc16_cons, crc16Update_lowByte, crc16_cons, crc16Update_self, crc16_nil]

/-- R100 and its converse: two more bytes take the checksum to 0 exactly when they are the checksum, low byte first. -/
theorem crc16_append_eq_zero_iff (v : Half) (body : List Byte) (lo hi : Byte) :
    crc16 v (body ++ [lo, hi]) = 0 ↔ crc16 v body = hi ++ lo := by
  rw [crc16_append, ← crc16_own_bytes hi lo]
  exact (crc16_left_injective [lo, hi]).eq_iff

theorem crc16_withChecksum (body : List Byte) : crc16 crcInitial (withChecksum body) = 0 :=
  (crc16_append_eq_zero_iff _ _ _ _).mpr (highByte_append_lowByte _).symm

/-! ### Frames (42_frame_codec.md R105, R115) -/

theorem frameBody_append (body : List Byte) (lo hi : Byte) : frameBody (body ++ [lo, hi]) = body := by
  simp [frameBody]

theorem frameRecv_append (body : List Byte) (lo hi : Byte) : frameRecv (body ++ [lo, hi]) = hi ++ lo := by
  rw [append_eq_or]
  simp [frameRecv]

theorem exists_eq_append_pair {f : List Byte} (h : 2 ≤ f.length) : ∃ body lo hi, f = body ++ [lo, hi] := by
  have hlen : (f.drop (f.length - 2)).length = 2 := by
    rw [List.length_drop]
    omega
  obtain ⟨lo, hi, hlast⟩ := List.length_eq_two.mp hlen
  exact ⟨f.take (f.length - 2), lo, hi, by rw [← hlast, List.take_append_drop]⟩

/-- A frame carries its own checksum exactly when the checksum of the whole frame is 0. -/
theorem frameCalc_eq_frameRecv_iff {f : List Byte} (h : 2 ≤ f.length) :
    frameCalc f = frameRecv f ↔ crc16 crcInitial f = 0 := by
  obtain ⟨body, lo, hi, rfl⟩ := exists_eq_append_pair h
  rw [crc16_append_eq_zero_iff, frameCalc, frameBody_append, frameRecv_append]

/-! ### Runs of commands -/

/-- A step executes the first of the commands the outside presents. -/
theorem step_withCommands (i : Instr) (p : List Instr) (s : State) :
    step (s.withCommands (i :: p)) = exec i ({ s with response := .writeDone }.withCommands p) := by
  rw [step_cmdWrite rfl, writeCmd_of_decode (decode_encode i)]
  rfl

theorem exec_crcInit (s : State) : exec .crcInit s = .next { s with crc := crcInitial, result := .ok } :=
  exec_pass rfl

theorem exec_crcUpdate (a : Byte) (s : State) :
    exec (.crcUpdate a) s = .next { s with crc := crc16Update s.crc a, result := .ok } :=
  exec_pass rfl

/-- One CRC_UPDATE a byte folds the bytes into CRC (R96, R98). -/
theorem run_crcUpdates (bytes : List Byte) (s : State) :
    Host.Core.run core bytes.length (s.withCommands (bytes.map .crcUpdate)) =
      .next { s with
        crc := crc16 s.crc bytes, result := if bytes = [] then s.result else .ok, inbox := [],
        response := if bytes = [] then s.response else .writeDone } := by
  induction bytes generalizing s with
  | nil => rfl
  | cons b bytes ih =>
    have hstep := (step_withCommands (.crcUpdate b) (bytes.map .crcUpdate) s).trans (exec_crcUpdate b _)
    have hrest := ih { s with crc := crc16Update s.crc b, result := .ok, response := .writeDone }
    exact ((run_of_step _ hstep).trans hrest).trans (by simp)

/-- A host write to CRC sets its 16 bits (10_state.md R27, R43). -/
theorem writeReg_crc_setWidth (v : Half) (s : State) : writeReg .crc (v.setWidth 32) s = { s with crc := v } := by
  have hlow : (v.setWidth 32).extractLsb' 0 16 = v := by simp [← BitVec.setWidth_eq_extractLsb']
  rw [writeReg, hlow]

theorem step_crcWrite {s : State} {v : Half} {rest : List HostEvent}
    (h : s.inbox = .access { addr := .window 0x010, width := .w32, op := .write (v.setWidth 32) } :: rest) :
    step s = .next { s with crc := v, inbox := rest, response := .writeDone } := by
  have hwrite := writeWord_register (r := .crc) nofun (v.setWidth 32)
    { s with inbox := rest, response := .writeDone }
  rw [writeReg_crc_setWidth] at hwrite
  exact (step_write h (by decide)).trans hwrite

/-! ### Flipped bits -/

theorem xor_one_shiftLeft_ne (x : Byte) {k : Nat} (hk : k < 8) : x ^^^ (1#8 <<< k) ≠ x := by
  have hbit : 1#8 <<< k ≠ 0 := by
    revert k
    decide
  simpa using hbit

/-! ### The statements -/

/-- Settles O9: the shift step is linear, and so are eight of them after an exclusive or. -/
theorem crcUpdateIsLinear : Obligations.CrcUpdateIsLinear := crc16Update_xor

/-- Settles O10: the first step sets CRC, and the run of updates folds the bytes into it. -/
theorem crcCommandSequenceComputesCrc : Obligations.CrcCommandSequenceComputesCrc := by
  intro s v bytes
  constructor
  · have hinit := (step_withCommands .crcInit (bytes.map .crcUpdate) s).trans (exec_crcInit _)
    have hrest := run_crcUpdates bytes { s with crc := crcInitial, result := .ok, response := .writeDone }
    exact ((run_of_step _ hinit).trans hrest).trans (by simp [crcInitial])
  · have hrest := run_crcUpdates bytes { s with crc := v, response := .writeDone }
    rw [run_of_step _ (step_crcWrite rfl)]
    exact hrest.trans (by simp)

/-- Settles O11: the checksum of the frame is 0, and the run of updates computes it. -/
theorem crcResidueIsZero : Obligations.CrcResidueIsZero := by
  intro bytes c frame
  have hzero : crc16 0xFFFF frame = 0 := crc16_withChecksum bytes
  exact ⟨hzero, fun s hs => ⟨_, run_crcUpdates frame s, (congrArg (crc16 · frame) hs).trans hzero⟩⟩

/-- Settles O12: a right frame has checksum 0 as a whole, and the flip changes that checksum. -/
theorem singleBitFlipIsDetected : Obligations.SingleBitFlipIsDetected := by
  intro f i k hf hi hk hright g hseen
  have hlen : 2 ≤ f.length := by omega
  have hf0 : crc16 crcInitial f = 0 := (frameCalc_eq_frameRecv_iff hlen).mp hright
  have hg0 : crc16 crcInitial g = 0 := (frameCalc_eq_frameRecv_iff (by rwa [List.length_set])).mp hseen
  exact crc16_set_ne hi (xor_one_shiftLeft_ne _ hk) (hg0.trans hf0.symm)

/-- Settles O7: CRC_INIT has no check and writes CRC and its success code. -/
theorem crcInitSetsInitialValue : Obligations.CrcInitSetsInitialValue := exec_crcInit

/-- Settles O8: the eight shift steps are the eighth iterate of one. -/
theorem crcUpdateRunsEightShiftSteps : Obligations.CrcUpdateRunsEightShiftSteps := by
  intro a s
  rw [exec_crcUpdate, crc16Update, crc16Shifts_eq_iterate]
  rfl

end Sys2Proof.Machine

/-! PROOFS. The frame codec (42_frame_codec.md). TX_SEND runs through one list of bytes, `withChecksum (txBody s)`;
RX_DECODE judges one list of bytes, `bufBytes .rx L s`, and delivers exactly the frames that are `Accepted`. What a
frame becomes is said of any list of bytes first and read off RXBUF afterwards. -/

namespace Sys2Proof.Machine

variable {s t u : State} {f : List Byte}

/-- A command that ends with OK failed no check, since no check has that code. -/
theorem checks_pass_of_result_ok {i : Instr} (h : exec i s = .next t) (hok : t.result = .ok) :
    firstFailure (commandChecks i s) = none ∧ t = (commandWrites i s).setResult (commandSuccess i) := by
  rcases exec_cases h with ⟨c, hc, rfl⟩ | hpass
  · have hcode : c ∈ checkCodes := firstFailure_commandChecks_mem hc
    rw [State.setResult_result] at hok
    exact absurd (hok ▸ hcode) (by decide)
  · exact hpass

/-! ### TX_SEND (R109 to R113) -/

theorem exec_txSend_of_fits (hlen : s.txLen.toNat + 4 ≤ s.maxlen) (hsink : s.sinkEn = true) :
    exec .txSend s = .next ((sendFrame s).setResult .ok) :=
  exec_pass (by simp [commandChecks, payloadTooLong, hlen, hsink])

theorem sendFrame_txOut_drop (s : State) :
    (sendFrame s).txOut.drop s.txOut.length = withChecksum (txBody s) :=
  List.drop_left

/-! ### The frame in RXBUF -/

theorem bufBytes_eq_of_getD {b : BufferId} {n : Nat} (hlen : f.length = n)
    (h : ∀ i, i < n → bufByte b i s = f.getD i 0) : bufBytes b n s = f := by
  refine List.ext_getElem (by rw [bufBytes_length, hlen]) fun i _ hi => ?_
  have hbyte := h i (hlen ▸ hi)
  rw [List.getD_eq_getElem f 0 hi] at hbyte
  simpa [bufBytes] using hbyte

section
variable {n : Nat} (s : State)

theorem frameAddress_bufBytes (hn : 4 ≤ n) : frameAddress (bufBytes .rx n s) = bufByte .rx 0 s :=
  bufBytes_getD _ _ _ _ (by omega)

theorem frameOpcode_bufBytes (hn : 4 ≤ n) : frameOpcode (bufBytes .rx n s) = bufByte .rx 1 s :=
  bufBytes_getD _ _ _ _ (by omega)

theorem frameBody_bufBytes (n : Nat) : frameBody (bufBytes .rx n s) = bufBytes .rx (n - 2) s := by
  rw [frameBody, bufBytes_length, bufBytes, ← List.map_take, List.take_range, Nat.min_eq_left (Nat.sub_le n 2)]
  rfl

theorem frameCalc_bufBytes (n : Nat) :
    frameCalc (bufBytes .rx n s) = crc16 0xFFFF ((List.range (n - 2)).map fun i => bufByte .rx i s) :=
  congrArg (crc16 crcInitial) (frameBody_bufBytes s n)

theorem frameRecv_bufBytes (hn : 4 ≤ n) :
    frameRecv (bufBytes .rx n s) =
      (bufByte .rx (n - 2) s).setWidth 16 ||| ((bufByte .rx (n - 1) s).setWidth 16 <<< 8) := by
  rw [frameRecv, bufBytes_length, bufBytes_getD _ _ _ _ (by omega), bufBytes_getD _ _ _ _ (by omega)]

end

theorem framePayload_getD {i : Nat} (h : i < f.length - 4) : (framePayload f).getD i 0 = f.getD (2 + i) 0 := by
  simp only [framePayload, frameBody, List.getD_eq_getElem?_getD, List.getElem?_drop]
  rw [List.getElem?_take_of_lt (by omega)]

/-! ### What becomes of a frame (R115 to R125) -/

/-- A frame for this node: long enough, a response, and addressed to it (R118 to R120). -/
structure Addressed (f : List Byte) (s : State) : Prop where
  length : 4 ≤ f.length
  opcode : frameOpcode f = s.respOpc
  address : frameAddress f = s.rxAddr

/-- A frame that is delivered: for this node, its checksum right, with a consumer registered and the mailbox empty
(R121 to R125). -/
structure Accepted (f : List Byte) (s : State) : Prop extends Addressed f s where
  checksum : frameCalc f = frameRecv f
  consumer : s.consEn = true
  empty : s.mboxFull = false

theorem decodeFrame_of_addressed (h : Addressed f s) :
    decodeFrame f s = judgeFrame f { s with rxCalc := frameCalc f, rxRecv := frameRecv f } := by
  have hlen := h.length
  rw [decodeFrame, if_neg (by omega), if_neg (by omega), if_neg (not_not.mpr h.opcode),
    if_neg (not_not.mpr h.address)]

theorem decodeFrame_of_mismatch (h : Addressed f s) (hsum : frameCalc f ≠ frameRecv f) :
    decodeFrame f s =
      { s with rxCalc := frameCalc f, rxRecv := frameRecv f, rxResult := .checksumMismatch } := by
  rw [decodeFrame_of_addressed h, judgeFrame, if_pos hsum]
  rfl

theorem decodeFrame_of_accepted (h : Accepted f s) :
    decodeFrame f s = (deliver (framePayload f) { s with rxCalc := frameCalc f, rxRecv := frameRecv f }).setRxResult
      .delivered := by
  rw [decodeFrame_of_addressed h.toAddressed, judgeFrame, if_neg (not_not.mpr h.checksum),
    if_neg (by simp [h.consumer]), if_neg (by simp [h.empty])]

/-- RX_RESULT is the first outcome that applies. -/
theorem decodeFrame_rxResult (f : List Byte) (s : State) :
    (decodeFrame f s).rxResult =
      if f.length = 0 then .empty
      else if f.length < 4 then .frameTooShort
      else if frameOpcode f ≠ s.respOpc then .notAResponse
      else if frameAddress f ≠ s.rxAddr then .notAddressedToMe
      else if frameCalc f ≠ frameRecv f then .checksumMismatch
      else if s.consEn = false then .noConsumer
      else if s.mboxFull = true then .mailboxBusy
      else .delivered := by
  simp only [decodeFrame, judgeFrame, apply_ite State.rxResult]
  rfl

theorem accepted_of_delivered (h : (decodeFrame f s).rxResult = .delivered) : Accepted f s := by
  rcases decodeFrame_cases f s with ⟨r, hr, _, hd⟩ | ⟨hd, hlen, hop, haddr⟩ <;> rw [hd] at h
  · exact absurd h hr
  · rcases judgeFrame_cases f { s with rxCalc := frameCalc f, rxRecv := frameRecv f } with
      ⟨r, hr, _, hj⟩ | ⟨_, hj⟩ | ⟨hempty, hcons, hsum, _⟩
    · rw [hj] at h
      exact absurd h hr
    · rw [hj] at h
      cases h
    · exact ⟨⟨hlen, hop, haddr⟩, hsum, hcons, hempty⟩

/-- A frame whose checksum is wrong is dropped, at whatever stage, with RX_RESULT and RX_CRC written at most. -/
theorem decodeFrame_of_wrong_checksum (s : State) (hsum : frameCalc f ≠ frameRecv f) :
    ∃ r x y, r ≠ .delivered ∧ decodeFrame f s = { s with rxResult := r, rxCalc := x, rxRecv := y } := by
  rcases decodeFrame_cases f s with ⟨r, hr, _, hd⟩ | ⟨_, hlen, hop, haddr⟩
  · exact ⟨r, _, _, hr, hd⟩
  · exact ⟨.checksumMismatch, _, _, by decide, decodeFrame_of_mismatch ⟨hlen, hop, haddr⟩ hsum⟩

/-! ### The delivery (R125) -/

/-- What a delivery writes, the bytes of MBOXBUF apart. -/
theorem decodeFrame_accepted_eq (h : Accepted f s) :
    decodeFrame f s = { s with
      rxCalc := frameCalc f, rxRecv := frameCalc f, mboxbuf := (decodeFrame f s).mboxbuf,
      mboxLen := BitVec.ofNat 16 (f.length - 4), mboxHandle := s.consHandle, mboxFull := true,
      rxResult := .delivered } := by
  rw [decodeFrame_of_accepted h, deliver_eq, framePayload_length, ← h.checksum]
  rfl

theorem bufByte_mbox_deliver (payload : List Byte) (i : Nat) (s : State) :
    bufByte .mbox i (deliver payload s) =
      if i < payload.length ∧ i < s.maxlen - 4 then payload.getD i 0 else bufByte .mbox i s := by
  have hbytes : bufByte .mbox i (deliver payload s) = bufByte .mbox i (writeBytes .mbox 0 payload s) := rfl
  rw [hbytes, bufByte_writeBytes]
  simp [State.capacity]

/-- The payload of a delivered frame stands in MBOXBUF and the bytes above it keep their values. -/
theorem bufByte_mbox_decodeFrame (h : Accepted f s) (hfits : f.length ≤ s.maxlen) (i : Nat) :
    bufByte .mbox i (decodeFrame f s) = if i < f.length - 4 then f.getD (2 + i) 0 else bufByte .mbox i s := by
  have hbytes := bufByte_mbox_deliver (framePayload f) i { s with rxCalc := frameCalc f, rxRecv := frameRecv f }
  rw [framePayload_length] at hbytes
  rw [decodeFrame_of_accepted h]
  refine hbytes.trans (if_ctx_congr ⟨fun hi => hi.1, fun hi => ⟨hi, ?_⟩⟩ framePayload_getD fun _ => rfl)
  show i < s.maxlen - 4
  omega

/-! ### RX_DECODE -/

theorem exec_rxDecode_of_le {b : Half} (h : b.toNat ≤ s.maxlen) :
    exec (.rxDecode b) s = .next ((decodeFrame (bufBytes .rx b.toNat s) s).setResult .ok) :=
  exec_pass (by simp [commandChecks, lengthTooLong, h])

theorem addressed_bufBytes {n : Nat} (hn : 4 ≤ n) (hop : bufByte .rx 1 s = s.respOpc)
    (haddr : bufByte .rx 0 s = s.rxAddr) : Addressed (bufBytes .rx n s) s :=
  ⟨by rwa [bufBytes_length], (frameOpcode_bufBytes s hn).trans hop, (frameAddress_bufBytes s hn).trans haddr⟩

/-! ### A frame sent and received (R132) -/

theorem txBody_length (s : State) : (txBody s).length = s.txLen.toNat + 2 := by
  simp [txBody]

theorem withChecksum_length (body : List Byte) : (withChecksum body).length = body.length + 2 := by
  simp [withChecksum]

theorem frameCalc_withChecksum (body : List Byte) : frameCalc (withChecksum body) = crc16 crcInitial body :=
  congrArg (crc16 crcInitial) (frameBody_append body _ _)

theorem frameRecv_withChecksum (body : List Byte) : frameRecv (withChecksum body) = crc16 crcInitial body :=
  (frameRecv_append body _ _).trans (highByte_append_lowByte _)

/-- The frame TX_SEND emits is delivered by a receiver whose RX_CFG is the frame's header. -/
theorem accepted_sent (hdest : u.rxAddr = s.txDest) (hopc : u.respOpc = s.txOpc) (hcons : u.consEn = true)
    (hempty : u.mboxFull = false) : Accepted (withChecksum (txBody s)) u where
  length := by rw [withChecksum_length, txBody_length]; omega
  opcode := hopc.symm
  address := hdest.symm
  checksum := (frameCalc_withChecksum _).trans (frameRecv_withChecksum _).symm
  consumer := hcons
  empty := hempty

/-- Bytes 2 and up of the frame TX_SEND emits are TXBUF's. -/
theorem sent_getD {i : Nat} (hi : i < s.txLen.toNat) :
    (withChecksum (txBody s)).getD (2 + i) 0 = bufByte .tx i s := by
  have hbyte := bufBytes_getD .tx _ i s hi
  rw [List.getD_eq_getElem?_getD] at hbyte
  rw [Nat.add_comm 2 i]
  simpa [withChecksum, txBody, List.getD_eq_getElem?_getD, List.getElem?_append, hi] using hbyte

/-! ### A frame with a changed bit (R133) -/

theorem getD_set_of_ne {i j : Nat} (hij : i ≠ j) (x : Byte) : (f.set i x).getD j 0 = f.getD j 0 := by
  rw [List.getD_eq_getElem?_getD, List.getElem?_set_ne hij, ← List.getD_eq_getElem?_getD]

/-- Changing the payload or the checksum of a frame leaves it addressed to the node it was. -/
theorem Addressed.set (h : Addressed f s) {i : Nat} (hi : 2 ≤ i) (x : Byte) : Addressed (f.set i x) s :=
  ⟨by rw [List.length_set]; exact h.length, (getD_set_of_ne (by omega) x).trans h.opcode,
    (getD_set_of_ne (by omega) x).trans h.address⟩

theorem bufBytes_eq_set {b : BufferId} {n i : Nat} {mask : Byte}
    (h : ∀ j, j < n → bufByte b j u = if j = i then bufByte b j s ^^^ mask else bufByte b j s) :
    bufBytes b n u = (bufBytes b n s).set i (bufByte b i s ^^^ mask) := by
  refine bufBytes_eq_of_getD (by simp) fun j hj => ?_
  rw [h j hj]
  by_cases hji : j = i
  · subst hji
    simp [hj]
  · rw [if_neg hji, getD_set_of_ne (Ne.symm hji), bufBytes_getD b n j s hj]

/-! ### The CRC register (R111, R121) -/

/-- `s` with the CRC register holding `v`. -/
def withCrc (v : Half) (s : State) : State := { s with crc := v }

section
variable (v : Half)

theorem bufBytes_withCrc (b : BufferId) (n : Nat) (s : State) : bufBytes b n (withCrc v s) = bufBytes b n s := by
  cases b <;> rfl

theorem writeByte_withCrc (b : BufferId) (i : Nat) (x : Byte) (s : State) :
    writeByte b i x (withCrc v s) = withCrc v (writeByte b i x s) := by
  rw [writeByte, writeByte, apply_ite (withCrc v)]
  cases b <;> rfl

theorem writeBytes_withCrc (b : BufferId) (i : Nat) (xs : List Byte) (s : State) :
    writeBytes b i xs (withCrc v s) = withCrc v (writeBytes b i xs s) := by
  induction xs generalizing i s with
  | nil => rfl
  | cons x xs ih => rw [writeBytes, writeByte_withCrc, ih, writeBytes]

theorem deliver_withCrc (payload : List Byte) (s : State) :
    deliver payload (withCrc v s) = withCrc v (deliver payload s) := by
  rw [deliver, writeBytes_withCrc]
  rfl

theorem judgeFrame_withCrc (f : List Byte) (s : State) :
    judgeFrame f (withCrc v s) = withCrc v (judgeFrame f s) := by
  simp only [judgeFrame, deliver_withCrc, apply_ite (withCrc v)]
  rfl

theorem decodeFrame_withCrc (f : List Byte) (s : State) :
    decodeFrame f (withCrc v s) = withCrc v (decodeFrame f s) := by
  simp only [decodeFrame, apply_ite (withCrc v), ← judgeFrame_withCrc]
  rfl

/-- The codec's two frame commands commute with any replacement of CRC. -/
theorem exec_withCrc {i : Instr} (hi : i = .txSend ∨ ∃ b, i = .rxDecode b) (h : exec i s = .next t) :
    exec i (withCrc v s) = .next (withCrc v t) := by
  refine exec_replaced (f := withCrc v) (fun _ _ => rfl) ?_ ?_ h
  · rcases hi with rfl | ⟨b, rfl⟩ <;> rfl
  · rcases hi with rfl | ⟨b, rfl⟩
    · rfl
    · rw [commandWrites, commandWrites, bufBytes_withCrc, decodeFrame_withCrc]

end

/-! ### The mailbox (R131) -/

/-- The mailbox's flag and its entry. -/
def mailboxOf (s : State) : Bool × Memory × Half × Byte := (s.mboxFull, s.mboxbuf, s.mboxLen, s.mboxHandle)

theorem mailboxOf_eq_iff : mailboxOf t = mailboxOf s ↔
    t.mboxFull = s.mboxFull ∧ t.mboxbuf = s.mboxbuf ∧ t.mboxLen = s.mboxLen ∧ t.mboxHandle = s.mboxHandle := by
  simp [mailboxOf]

/-- A frame is delivered, to an empty mailbox which is full afterwards, or it leaves the mailbox as it was. -/
theorem decodeFrame_mailbox_cases (f : List Byte) (s : State) :
    ((decodeFrame f s).rxResult = .delivered ∧ s.mboxFull = false ∧ (decodeFrame f s).mboxFull = true) ∨
    ((decodeFrame f s).rxResult ≠ .delivered ∧ mailboxOf (decodeFrame f s) = mailboxOf s) := by
  rcases decodeFrame_cases f s with ⟨r, hr, _, hd⟩ | ⟨hd, _⟩ <;> rw [hd]
  · exact .inr ⟨hr, rfl⟩
  · rcases judgeFrame_cases f { s with rxCalc := frameCalc f, rxRecv := frameRecv f } with
      ⟨r, hr, _, hj⟩ | ⟨_, hj⟩ | ⟨hempty, _, _, hj⟩ <;> rw [hj]
    · exact .inr ⟨hr, rfl⟩
    · exact .inr ⟨nofun, rfl⟩
    · exact .inl ⟨rfl, hempty, rfl⟩

/-- No command but RX_DECODE and MBOX_ACK writes the mailbox. -/
theorem commandWrites_mailboxOf {i : Instr} (hdecode : ∀ b, i ≠ .rxDecode b) (hack : i ≠ .mboxAck) (s : State) :
    mailboxOf (commandWrites i s) = mailboxOf s := by
  cases hq : requiredSeq i with
  | some q => rw [commandWrites_eq_withSequencerOf hq]; rfl
  | none =>
    cases i with
    | nop | crcInit | crcUpdate | txSend => rfl
    | rxDecode b => exact absurd rfl (hdecode b)
    | mboxAck => exact absurd rfl hack
    | _ => cases hq

theorem exec_mboxAck (s : State) :
    exec .mboxAck s = .next { s with mboxFull := false, mboxOverrun := false, result := .ok } :=
  exec_pass rfl

/-- Everything a command can do to the mailbox. -/
inductive MailboxCommand (i : Instr) (s t : State) : Prop where
  /-- It leaves the mailbox alone, and is no RX_DECODE that delivered. -/
  | kept (hm : mailboxOf t = mailboxOf s)
      (hr : ∀ b, i = .rxDecode b → t.result = .ok → t.rxResult ≠ .delivered)
  /-- It delivers to an empty mailbox. -/
  | delivered (b : Half) (hi : i = .rxDecode b) (hr : t.rxResult = .delivered) (hs : s.mboxFull = false)
      (ht : t.mboxFull = true)
  /-- It empties the mailbox. -/
  | acked (hi : i = .mboxAck) (ht : t.mboxFull = false)

theorem exec_mailbox {i : Instr} (h : exec i s = .next t) : MailboxCommand i s t := by
  rcases exec_cases h with ⟨c, hc, rfl⟩ | ⟨_, rfl⟩
  · have hcode : c ∈ checkCodes := firstFailure_commandChecks_mem hc
    refine .kept rfl fun b _ hok => ?_
    rw [State.setResult_result] at hok
    exact absurd (hok ▸ hcode) (by decide)
  · by_cases hack : i = .mboxAck
    · subst hack
      exact .acked rfl rfl
    by_cases hdecode : ∃ b, i = .rxDecode b
    · obtain ⟨b, rfl⟩ := hdecode
      rcases decodeFrame_mailbox_cases (bufBytes .rx b.toNat s) s with ⟨hr, hempty, hfull⟩ | ⟨hr, hm⟩
      · exact .delivered b rfl hr hempty hfull
      · exact .kept hm fun _ _ _ => hr
    · have hno : ∀ b, i ≠ .rxDecode b := fun b hi => hdecode ⟨b, hi⟩
      exact .kept (commandWrites_mailboxOf hno hack s) fun b hi => absurd hi (hno b)

theorem writeReg_mailboxOf (r : Reg) (w : Word) (s : State) : mailboxOf (writeReg r w s) = mailboxOf s := by
  cases r <;> rfl

theorem AccessEffect.mailboxOf_eq {a : HostAccess} (h : AccessEffect a s t) : mailboxOf t = mailboxOf s := by
  cases h with
  | illegal h | read _ h | ignored h => exact h ▸ rfl
  | register r w _ _ h => rw [h, writeReg_mailboxOf]; rfl
  | buffer b i w hb h => rw [h, writeBufferWord_eq hb]; rfl

/-- Everything a step can do to the mailbox. -/
inductive MailboxStep (s t : State) : Prop where
  /-- It leaves the mailbox alone, and executes no RX_DECODE that delivered. -/
  | kept (hm : mailboxOf t = mailboxOf s)
      (hr : ∀ b, nextCommand s = some (.rxDecode b) → t.result = .ok → t.rxResult ≠ .delivered)
  /-- It delivers to an empty mailbox. -/
  | delivered (b : Half) (hc : nextCommand s = some (.rxDecode b)) (hr : t.rxResult = .delivered)
      (hs : s.mboxFull = false) (ht : t.mboxFull = true)
  /-- It empties the mailbox. -/
  | emptied (hc : nextCommand s = some .mboxAck ∨ nextIsReset s = true)
      (hno : ∀ b, nextCommand s ≠ some (.rxDecode b)) (ht : t.mboxFull = false)

theorem step_mailbox (h : step s = .next t) : MailboxStep s t := by
  have hno (hc : nextCommand s = none) (b : Half) : nextCommand s ≠ some (.rxDecode b) := by simp [hc]
  cases step_kinds h with
  | wait hi h =>
    have hc : nextCommand s = none := by simp [nextCommand, hi]
    exact .kept (h ▸ rfl) fun b hb => absurd hb (hno hc b)
  | command e rest i _ hc _ h =>
    cases exec_mailbox h with
    | kept hm hr => exact .kept hm fun b hb => hr b (Option.some.inj (hc.symm.trans hb))
    | delivered b hi hr hs ht => exact .delivered b (hi ▸ hc) hr hs ht
    | acked hi ht => exact .emptied (.inl (hi ▸ hc)) (fun b => by simp [hc, hi]) ht
  | access a rest _ hc _ h => exact .kept h.mailboxOf_eq fun b hb => absurd hb (hno hc b)
  | reset d rest _ hc hr h => exact .emptied (.inr hr) (hno hc) (h ▸ rfl)
  | power rest _ hc hr h => exact .emptied (.inr hr) (hno hc) (h ▸ rfl)

/-! ### The statements -/

/-- Settles O13: the two checks in their order, else the writes of `sendFrame`. -/
theorem txSendEmitsFrameOrFails : Obligations.TxSendEmitsFrameOrFails := by
  intro s n body c
  refine ⟨fun hlong => exec_fail ?_, fun hfits hsink => exec_fail ?_, exec_txSend_of_fits⟩
  · simp [commandChecks, payloadTooLong, n, hlong]
  · simp [commandChecks, payloadTooLong, n, hfits, hsink]

/-- Settles O14: the state a TX_SEND left has the checks and the frame it had before. -/
theorem secondTxSendEmitsSameFrame : Obligations.SecondTxSendEmitsSameFrame := by
  intro s t h hok
  obtain ⟨hpass, rfl⟩ := checks_pass_of_result_ok h hok
  have hdrop : ((commandWrites .txSend s).setResult .ok).txOut.drop s.txOut.length = withChecksum (txBody s) :=
    sendFrame_txOut_drop s
  rw [commandSuccess, hdrop]
  exact exec_pass hpass

/-- Settles O15: the outcome of the frame in RXBUF; the bytes are looked at only in a frame of 4 or more. -/
theorem rxDecodeReportsFirstOutcome : Obligations.RxDecodeReportsFirstOutcome := by
  intro b s L f calc' recv
  refine ⟨fun hlong => exec_fail ?_, fun hle => ⟨_, exec_rxDecode_of_le hle, rfl, ?_⟩⟩
  · simp [commandChecks, lengthTooLong, L, hlong]
  · rw [State.setResult_rxResult, decodeFrame_rxResult, bufBytes_length]
    refine if_congr Iff.rfl rfl (if_ctx_congr Iff.rfl (fun _ => rfl) fun hn => ?_)
    have hn : 4 ≤ b.toNat := Nat.le_of_not_lt hn
    rw [frameOpcode_bufBytes s hn, frameAddress_bufBytes s hn, frameCalc_bufBytes, frameRecv_bufBytes s hn]

/-- Settles O16: one early return of `decodeFrame` a clause. -/
theorem rxDecodeHeaderDrops : Obligations.RxDecodeHeaderDrops := by
  intro b s hle
  rw [exec_rxDecode_of_le hle, decodeFrame, bufBytes_length]
  refine ⟨fun h0 => ?_, fun h1 h3 => ?_, fun hn hop => ?_, fun hn hop haddr => ?_⟩
  · rw [if_pos h0]
    rfl
  · rw [if_neg (by omega), if_pos (by omega)]
    rfl
  · rw [if_neg (by omega), if_neg (by omega), frameOpcode_bufBytes s hn, if_pos hop]
    rfl
  · rw [if_neg (by omega), if_neg (by omega), frameOpcode_bufBytes s hn, if_neg (not_not.mpr hop),
      frameAddress_bufBytes s hn, if_pos haddr]
    rfl

/-- Settles O17: one return of `judgeFrame` before the delivery a clause. -/
theorem rxDecodeChecksumStageDrops : Obligations.RxDecodeChecksumStageDrops := by
  intro b s hn hle hop haddr f calc' recv
  rw [exec_rxDecode_of_le hle, decodeFrame_of_addressed (addressed_bufBytes hn hop haddr), judgeFrame,
    frameCalc_bufBytes, frameRecv_bufBytes s hn]
  refine ⟨fun hsum => ?_, fun hsum hcons => ?_, fun hsum hcons hfull => ?_⟩
  · rw [if_pos hsum]
    rfl
  · rw [if_neg (not_not.mpr hsum), if_pos hcons]
    rfl
  · rw [if_neg (not_not.mpr hsum), if_neg (by simp [hcons]), if_pos hfull]
    rfl

/-- Settles O18: the frame in RXBUF is `Accepted`, and a delivery's writes are known field by field and byte by byte. -/
theorem rxDecodeDelivers : Obligations.RxDecodeDelivers := by
  intro b s hn hle hop haddr hcons hempty f calc' hsum
  have hacc : Accepted (bufBytes .rx b.toNat s) s :=
    ⟨addressed_bufBytes hn hop haddr, by rw [frameCalc_bufBytes, frameRecv_bufBytes s hn]; exact hsum, hcons, hempty⟩
  have heq := decodeFrame_accepted_eq hacc
  have hlen : BitVec.ofNat 16 (b.toNat - 4) = b - 4 := by bv_omega
  rw [frameCalc_bufBytes, bufBytes_length, hlen] at heq
  refine ⟨_, exec_rxDecode_of_le hle, congrArg (State.setResult · .ok) heq, fun i => ?_, fun i => ?_, ?_⟩
  · rw [bufByte_setResult, bufByte_mbox_decodeFrame hacc (by rwa [bufBytes_length]), bufBytes_length]
    exact if_ctx_congr Iff.rfl (fun hi => bufBytes_getD _ _ _ _ (by omega)) fun _ => rfl
  · rw [bufByte_setResult, bufByte_setResult]
    exact ⟨bufByte_commandWrites (i := .rxDecode b) (.inr (by decide)) i s,
      bufByte_commandWrites (i := .rxDecode b) (.inr (by decide)) i s⟩
  · rw [heq]
    exact Bool.and_true _

/-- Settles O19: MBOX_ACK has no check, and IRQ needs MBOX_FULL. -/
theorem mboxAckEmptiesMailbox : Obligations.MboxAckEmptiesMailbox :=
  fun s => ⟨_, exec_mboxAck s, rfl, Bool.and_false _⟩

/-- Settles O20, by the kinds of a step and of a command as the mailbox sees them. -/
theorem mailboxIsSingleSlot : Obligations.MailboxIsSingleSlot := by
  intro s t h
  cases step_mailbox h with
  | kept hm hr =>
    obtain ⟨hflag, hentry⟩ := mailboxOf_eq_iff.mp hm
    exact ⟨fun h0 h1 => by simp [hflag, h0] at h1, fun h1 h0 => by simp [hflag, h1] at h0, fun _ _ => hentry,
      fun _ => hr⟩
  | delivered b hc hr hs ht =>
    have hnot : s.mboxFull ≠ true := by simp [hs]
    exact ⟨fun _ _ => ⟨b, hc, hr⟩, fun h1 => absurd h1 hnot, fun h1 => absurd h1 hnot, fun h1 => absurd h1 hnot⟩
  | emptied hc hno ht =>
    have hnot : t.mboxFull ≠ true := by simp [ht]
    exact ⟨fun _ h1 => absurd h1 hnot, fun _ _ => hc, fun _ h1 => absurd h1 hnot, fun _ b hb => absurd hb (hno b)⟩

/-- Settles O22: the frame in RXBUF is the one the TX_SEND emitted, and that one is `Accepted`. -/
theorem encodeThenDecodeDelivers : Obligations.EncodeThenDecodeDelivers := by
  intro s t u b hsink hfits hsend hb hrx hmax hdest hopc hcons hempty
  cases (exec_txSend_of_fits hfits hsink).symm.trans hsend
  have hsent : (withChecksum (txBody s)).length = b.toNat := by rw [withChecksum_length, txBody_length, hb]
  have hrx : bufBytes .rx b.toNat u = withChecksum (txBody s) := by
    refine bufBytes_eq_of_getD hsent fun i hi => (hrx i hi).trans ?_
    rw [← sendFrame_txOut_drop]
    rfl
  have hacc := accepted_sent hdest hopc hcons hempty
  have heq := decodeFrame_accepted_eq hacc
  have hle : b.toNat ≤ u.maxlen := by omega
  refine ⟨_, exec_rxDecode_of_le hle, ?_⟩
  rw [hrx]
  refine ⟨by rw [heq]; rfl, ?_, by rw [heq]; rfl, fun i hi => ?_, ?_, ?_⟩
  · rw [heq, hsent, hb]
    simp [State.setResult]
  · rw [bufByte_setResult, bufByte_mbox_decodeFrame hacc (by omega), if_pos (by omega)]
    exact sent_getD hi
  · rw [heq]
    exact frameCalc_withChecksum _
  · rw [heq]
    exact frameCalc_withChecksum _

/-- Settles O23: by R101 the changed frame's checksum is wrong, so it is dropped; if it is still addressed to this node
the drop is the checksum's. -/
theorem corruptedFrameIsNotDelivered : Obligations.CorruptedFrameIsNotDelivered := by
  rintro s t u b i k m hle hexec hdel hi hk rfl hbytes
  cases (exec_rxDecode_of_le hle).symm.trans hexec
  have hacc : Accepted (bufBytes .rx b.toNat s) s := accepted_of_delivered hdel
  have hlen : (bufBytes .rx b.toNat s).length = b.toNat := bufBytes_length _ _ _
  have hchanged := bufBytes_eq_set hbytes
  have hsum := singleBitFlipIsDetected (bufBytes .rx b.toNat s) i k hacc.length (by rwa [hlen]) hk hacc.checksum
  rw [bufBytes_getD _ _ _ _ hi] at hsum
  refine ⟨_, exec_rxDecode_of_le hle, ?_⟩
  rw [hchanged]
  obtain ⟨r, x, y, hr, hdrop⟩ := decodeFrame_of_wrong_checksum { s with rxbuf := m } hsum
  refine ⟨by rw [hdrop]; exact hr, fun h2 => ?_, by rw [hdrop]; exact ⟨rfl, rfl, rfl, rfl, rfl⟩⟩
  have haddr : Addressed (bufBytes .rx b.toNat s) { s with rxbuf := m } :=
    ⟨hacc.length, hacc.opcode, hacc.address⟩
  rw [decodeFrame_of_mismatch (haddr.set h2 _) hsum]
  rfl

/-- Settles O41: the commands commute with replacing CRC; replaced by itself, it shows that CRC is kept. -/
theorem codecNeverTouchesCrcRegister : Obligations.CodecNeverTouchesCrcRegister := by
  intro i s t v hi h
  have hself : exec i s = .next (withCrc s.crc t) := exec_withCrc s.crc hi h
  have hkept : t = withCrc s.crc t := Host.Outcome.next.inj (h.symm.trans hself)
  have hcrc : t.crc = (withCrc s.crc t).crc := congrArg State.crc hkept
  exact ⟨hcrc, exec_withCrc v hi h⟩

end Sys2Proof.Machine

/-! PROOFS. The identifier sequencer (43_id_sequencer.md). A command of it passes the checks of R136 in their order or
ends at the first that fails; the commands' next states, said here once, then give the laws of the saves (R146, R147,
R156), of the init scan (R135, R142), of the backward scan (R169) and of the steps (R137, R172). -/

namespace Sys2Proof.Machine

variable {s t u : State} {i : Instr} {q : SeqState} {a : Byte} {b c : Half}

/-! ### The checks of R136 in their order -/

theorem firstFailure_needSeq_of_ne {rest : List (Bool × ResultCode)} (h : s.seq ≠ q) :
    firstFailure (needSeq q s :: rest) = some .badState :=
  if_pos (decide_eq_true h)

theorem firstFailure_needSeq_of_eq {rest : List (Bool × ResultCode)} (h : s.seq = q) :
    firstFailure (needSeq q s :: rest) = firstFailure rest :=
  if_neg (by simp [h])

/-- A command of the sequencer checks SEQ first. -/
theorem commandChecks_of_required (hq : requiredSeq i = some q) (s : State) :
    ∃ rest, commandChecks i s = needSeq q s :: rest := by
  cases i with
  | nop | crcInit | crcUpdate | txSend | rxDecode | mboxAck => cases hq
  | _ => cases hq; exact ⟨_, rfl⟩

theorem exec_of_wrong_seq (hq : requiredSeq i = some q) (h : s.seq ≠ q) : exec i s = .next (s.setResult .badState) := by
  obtain ⟨rest, hchecks⟩ := commandChecks_of_required hq s
  exact exec_fail (by rw [hchecks, firstFailure_needSeq_of_ne h])

/-- A command whose only check is SEQ. -/
theorem exec_of_seq (hc : commandChecks i s = [needSeq q s]) (hseq : s.seq = q) :
    exec i s = .next ((commandWrites i s).setResult (commandSuccess i)) :=
  exec_pass (by rw [hc, firstFailure_needSeq_of_eq hseq, firstFailure_nil])

section
variable (hc : commandChecks i s = [needSeq q s, needBoolean a]) (hseq : s.seq = q)
include hc hseq

/-- A command that reports a 0-or-1 fact fails on any other operand. -/
theorem exec_of_bad_report (ha : 1 < a.toNat) : exec i s = .next (s.setResult .badArg) :=
  exec_fail (by simp [hc, firstFailure_needSeq_of_eq hseq, needBoolean, notBoolean, ha])

theorem exec_of_report (ha : a.toNat ≤ 1) : exec i s = .next ((commandWrites i s).setResult (commandSuccess i)) :=
  exec_pass (by simp [hc, firstFailure_needSeq_of_eq hseq, needBoolean, notBoolean, ha])

end

section
variable {fails : Bool} {code : ResultCode}
variable (hc : commandChecks i s = [needSeq .idle s, needInited s, (fails, code)]) (hseq : s.seq = .idle)
include hc hseq

/-- A command that needs the init scan done fails before it, whatever its own check says. -/
theorem exec_of_not_inited (hi : s.inited = false) : exec i s = .next (s.setResult .notInit) :=
  exec_fail (by simp [hc, firstFailure_needSeq_of_eq hseq, needInited, hi])

theorem exec_of_own_check (hi : s.inited = true) (hf : fails = true) : exec i s = .next (s.setResult code) :=
  exec_fail (by simp [hc, firstFailure_needSeq_of_eq hseq, needInited, hi, hf])

theorem exec_of_inited (hi : s.inited = true) (hf : fails = false) :
    exec i s = .next ((commandWrites i s).setResult (commandSuccess i)) :=
  exec_pass (by simp [hc, firstFailure_needSeq_of_eq hseq, needInited, hi, hf])

end

/-! ### The init scan (R138 to R143) -/

theorem exec_initBegin (hseq : s.seq = .idle) :
    exec .initBegin s = .next { s with scanMax := 0, seq := .initScan, result := .ok } :=
  exec_of_seq rfl hseq

/-- The larger of two identifiers, as R139 writes it, on numbers. -/
theorem larger_eq_ofNat_max (m v : Half) : (if m < v then v else m) = BitVec.ofNat 16 (max m.toNat v.toNat) := by
  split <;> bv_omega

theorem exec_initFeed (hseq : s.seq = .initScan) :
    exec (.initFeed b) s =
      .next { s with scanMax := BitVec.ofNat 16 (max s.scanMax.toNat b.toNat), result := .ok } := by
  rw [← larger_eq_ofNat_max]
  exact exec_of_seq rfl hseq

theorem exec_initEnd (hseq : s.seq = .initScan) :
    exec .initEnd s = .next { s with lastId := s.scanMax, inited := true, seq := .idle, result := .ok } :=
  exec_of_seq rfl hseq

/-- Feeding one more identifier than the maximum so far. -/
theorem max_ofNat_max (m v : Half) (n : Nat) :
    max (BitVec.ofNat 16 (max m.toNat v.toNat)).toNat n = max m.toNat (max v.toNat n) := by
  rw [← larger_eq_ofNat_max]
  split <;> bv_omega

/-- The rest of an init scan, from any SCAN_MAX: the identifiers still to be fed, then INIT_END. -/
theorem run_initFeeds (ids : List Half) (s : State) (hseq : s.seq = .initScan) :
    let top := BitVec.ofNat 16 (max s.scanMax.toNat (ids.foldr (fun v n => max v.toNat n) 0))
    Host.Core.run core (ids.length + 1) (s.withCommands (ids.map .initFeed ++ [.initEnd])) =
      .next { s with
        scanMax := top, lastId := top, inited := true, seq := .idle, result := .ok, inbox := [],
        response := .writeDone } := by
  induction ids generalizing s with
  | nil =>
    have hend := (step_withCommands .initEnd [] s).trans (exec_initEnd hseq)
    exact (run_of_step 0 hend).trans (by simp [Host.Core.run, State.withCommands])
  | cons v ids ih =>
    have hfeed := (step_withCommands (.initFeed v) (ids.map .initFeed ++ [.initEnd]) s).trans (exec_initFeed hseq)
    have hrest := ih { s with
      scanMax := BitVec.ofNat 16 (max s.scanMax.toNat v.toNat), result := .ok, response := .writeDone } hseq
    exact ((run_of_step _ hfeed).trans hrest).trans (by simp only [max_ofNat_max, List.foldr_cons])

/-! ### Saves (R150 to R156) -/

theorem exec_saveBegin (hseq : s.seq = .idle) (hi : s.inited = true) (hlast : s.lastId.toNat < 0xFFFF) :
    exec .saveBegin s = .next { s with candidate := s.lastId + 1, seq := .savePending, result := .ok } :=
  exec_of_inited rfl hseq hi (decide_eq_false (by bv_omega))

theorem saveBegin_reserves (h : exec .saveBegin s = .next t) (hseq : s.seq = .idle) (hi : s.inited = true)
    (hlast : s.lastId.toNat < 0xFFFF) : t.result = .ok ∧ t.candidate = s.lastId + 1 ∧ t.seq = .savePending := by
  obtain rfl := Host.Outcome.next.inj ((exec_saveBegin hseq hi hlast).symm.trans h)
  exact ⟨rfl, rfl, rfl⟩

/-- A SAVE_BEGIN that completed with OK found the block idle, the init scan done and an identifier left. -/
theorem saveBegin_of_result_ok (h : exec .saveBegin s = .next t) (hok : t.result = .ok) :
    s.inited = true ∧ s.lastId.toNat < 0xFFFF ∧
      t = { s with candidate := s.lastId + 1, seq := .savePending, result := .ok } := by
  obtain ⟨hc, rfl⟩ := checks_pass_of_result_ok h hok
  obtain ⟨_, hc⟩ := firstFailure_needSeq_none.mp hc
  obtain ⟨hi, hc⟩ := firstFailure_needInited_none.mp hc
  have hlast : s.lastId ≠ 0xFFFF := by simpa using hc
  exact ⟨hi, by bv_omega, rfl⟩

theorem exec_saveCommit (hseq : s.seq = .savePending) :
    exec .saveCommit s = .next { s with lastId := s.candidate, resultId := s.candidate, seq := .idle, result := .ok } :=
  exec_of_seq rfl hseq

theorem exec_saveAbort (hseq : s.seq = .savePending) (ha : a.toNat ≤ 1) :
    exec (.saveAbort a) s =
      .next { s with seq := .idle, result := if a = 0 then .encodeError else .writeError } :=
  exec_of_report rfl hseq ha

/-! ### Deletes and the backward scan (R158 to R167) -/

theorem exec_deleteRemoved (hseq : s.seq = .deleteRemove) (ha : a.toNat ≤ 1) :
    exec (.deleteRemoved a) s = .next ((afterRemoval a s).setResult (if a = 0 then .deleteFailed else .ok)) :=
  exec_of_report rfl hseq ha

theorem exec_probeResult (hseq : s.seq = .deleteProbe) (ha : a.toNat ≤ 1) :
    exec (.probeResult a) s = .next ((afterProbe a s).setResult .ok) :=
  exec_of_report rfl hseq ha

theorem scanAt_zero (s : State) : scanAt 0 s = { s with lastId := 0, seq := .idle } := rfl

theorem scanAt_of_ne_zero (h : c ≠ 0) : scanAt c s = { s with probeId := c, seq := .deleteProbe } := if_neg h

theorem sub_one_eq_zero (h : c.toNat = 1) : c - 1 = 0 := by bv_omega

theorem sub_one_ne_zero (h : 2 ≤ c.toNat) : c - 1 ≠ 0 := by bv_omega

theorem sub_one_eq_ofNat (h : 1 ≤ c.toNat) : c - 1 = BitVec.ofNat 16 (c.toNat - 1) := by bv_omega

/-- The scan arrives at the cursor below 1: there is nothing left to probe. -/
theorem scanAt_below_one (h : c.toNat = 1) : scanAt (c - 1) s = { s with lastId := 0, seq := .idle } := by
  rw [sub_one_eq_zero h, scanAt_zero]

theorem scanAt_below (h : 2 ≤ c.toNat) :
    scanAt (c - 1) s = { s with probeId := BitVec.ofNat 16 (c.toNat - 1), seq := .deleteProbe } := by
  rw [scanAt_of_ne_zero (sub_one_ne_zero h), sub_one_eq_ofNat (by omega)]

theorem afterRemoval_one_of_ne (h : s.delId ≠ s.lastId) : afterRemoval 1 s = { s with seq := .idle } := if_pos h

theorem afterRemoval_one_of_eq (h : s.delId = s.lastId) : afterRemoval 1 s = scanAt (s.lastId - 1) s :=
  if_neg (not_not.mpr h)

/-! ### The statements about one command -/

/-- Settles O34: SEQ is the first check of every command that has one in R136. -/
theorem wrongSeqStateIsBadState : Obligations.WrongSeqStateIsBadState := fun _ _ _ => exec_of_wrong_seq

/-- Settles O24: SEQ is these commands' only check. -/
theorem initScanCommands : Obligations.InitScanCommands := fun _ _ =>
  ⟨exec_of_wrong_seq rfl, exec_initBegin, exec_of_wrong_seq rfl, exec_initFeed, exec_of_wrong_seq rfl, exec_initEnd⟩

/-- Settles O26: the three checks in their order, else the reservation. -/
theorem saveBeginReservesCandidate : Obligations.SaveBeginReservesCandidate := by
  intro s
  refine ⟨exec_of_wrong_seq rfl, exec_of_not_inited rfl, fun hseq hi hlast => ?_, fun hseq hi hlast => ?_⟩
  · exact exec_of_own_check rfl hseq hi (decide_eq_true (BitVec.eq_of_toNat_eq hlast))
  · have hcandidate : s.lastId + 1 = BitVec.ofNat 16 (s.lastId.toNat + 1) := by bv_omega
    exact hcandidate ▸ exec_saveBegin hseq hi hlast

/-- Settles O27: SEQ is the only check of the commit, and the abort looks at its reason after it. -/
theorem saveCommitAndAbort : Obligations.SaveCommitAndAbort := by
  intro a s
  refine ⟨exec_of_wrong_seq rfl, exec_saveCommit, exec_of_wrong_seq rfl, exec_of_bad_report rfl,
    fun hseq ha => ?_, fun hseq ha => ?_⟩
  · obtain rfl : a = 0 := BitVec.eq_of_toNat_eq ha
    exact exec_saveAbort hseq (by decide)
  · obtain rfl : a = 1 := BitVec.eq_of_toNat_eq ha
    exact exec_saveAbort hseq (by decide)

/-- Settles O30: the three checks in their order, else DEL_ID takes the operand. -/
theorem deleteBeginRecordsIdentifier : Obligations.DeleteBeginRecordsIdentifier := by
  intro b s
  refine ⟨exec_of_wrong_seq rfl, exec_of_not_inited rfl, fun hseq hi hb => ?_, fun hseq hi hb => ?_⟩
  · exact exec_of_own_check rfl hseq hi (decide_eq_true (by omega))
  · exact exec_of_inited rfl hseq hi (decide_eq_false (by omega))

/-- Settles O33: the three checks in their order, else RESULT_ID takes LAST_ID. -/
theorem latestReturnsLastId : Obligations.LatestReturnsLastId := by
  intro s
  refine ⟨exec_of_wrong_seq rfl, exec_of_not_inited rfl, fun hseq hi hlast => ?_, fun hseq hi hlast => ?_⟩
  · exact exec_of_own_check rfl hseq hi (decide_eq_true (BitVec.eq_of_toNat_eq hlast))
  · exact exec_of_inited rfl hseq hi (decide_eq_false (by bv_omega))

/-- Settles O31, by the report, then by whether LAST_ID was removed, then by whether an identifier is left below it. -/
theorem deleteRemovedEndsOrStartsScan : Obligations.DeleteRemovedEndsOrStartsScan := by
  intro a s
  have hone (hseq : s.seq = .deleteRemove) (ha : a.toNat = 1) :
      exec (.deleteRemoved a) s = .next ((afterRemoval 1 s).setResult .ok) := by
    obtain rfl : a = 1 := BitVec.eq_of_toNat_eq ha
    exact exec_deleteRemoved hseq (by decide)
  refine ⟨exec_of_wrong_seq rfl, exec_of_bad_report rfl, fun hseq ha => ?_, fun hseq ha hd => ?_,
    fun hseq ha hd hlast => ?_, fun hseq ha hd hlast => ?_⟩
  · obtain rfl : a = 0 := BitVec.eq_of_toNat_eq ha
    exact exec_deleteRemoved hseq (by decide)
  · rw [hone hseq ha, afterRemoval_one_of_ne hd]
    rfl
  · rw [hone hseq ha, afterRemoval_one_of_eq hd, scanAt_below_one hlast]
    rfl
  · rw [hone hseq ha, afterRemoval_one_of_eq hd, scanAt_below hlast]
    rfl

/-- Settles O32, by the report and by whether an identifier is left below the cursor. -/
theorem probeResultMovesCursor : Obligations.ProbeResultMovesCursor := by
  intro a s
  have habsent (hseq : s.seq = .deleteProbe) (ha : a.toNat = 0) :
      exec (.probeResult a) s = .next ((scanAt (s.probeId - 1) s).setResult .ok) := by
    obtain rfl : a = 0 := BitVec.eq_of_toNat_eq ha
    exact exec_probeResult hseq (by decide)
  refine ⟨exec_of_wrong_seq rfl, exec_of_bad_report rfl, fun hseq ha => ?_, fun hseq ha hprobe => ?_,
    fun hseq ha hprobe => ?_⟩
  · obtain rfl : a = 1 := BitVec.eq_of_toNat_eq ha
    exact exec_probeResult hseq (by decide)
  · rw [habsent hseq ha, scanAt_below_one hprobe]
    rfl
  · rw [habsent hseq ha, scanAt_below hprobe, ← hseq]
    rfl

/-! ### The statements about saves and init scans -/

/-- Settles O25: INIT_BEGIN sets SCAN_MAX to 0, and the rest of the scan raises it to the maximum. -/
theorem initScanFindsMaximum : Obligations.InitScanFindsMaximum := by
  intro s ids hseq top
  have hbegin := (step_withCommands .initBegin (ids.map .initFeed ++ [.initEnd]) s).trans (exec_initBegin hseq)
  have hrest := run_initFeeds ids { s with scanMax := 0, seq := .initScan, result := .ok, response := .writeDone } rfl
  exact ((run_of_step _ hbegin).trans hrest).trans (by simp [top])

/-- Settles O29: the save's own writes are CANDIDATE and SEQ, so an abort brings back the state it began in but for
CANDIDATE and RESULT, and LAST_ID below 0xFFFF makes the candidate one more on numbers. -/
theorem savesAreMonotoneAndRollBack : Obligations.SavesAreMonotoneAndRollBack := by
  intro s t h hok
  obtain ⟨hi, hlast, rfl⟩ := saveBegin_of_result_ok h hok
  refine ⟨fun a u ha habort => ?_, fun u hcommit => ?_⟩
  · obtain rfl := Host.Outcome.next.inj ((exec_saveAbort rfl ha).symm.trans habort)
    refine ⟨rfl, fun v hagain => ?_⟩
    have hreserved := saveBegin_reserves hagain rfl hi hlast
    exact hreserved
  · obtain rfl := Host.Outcome.next.inj ((exec_saveCommit rfl).symm.trans hcommit)
    exact ⟨by bv_omega, rfl, rfl⟩

/-! ### What becomes of LAST_ID (R146, R172) -/

/-- The scan arrives at a cursor and goes on, with LAST_ID as it was, or it ends. -/
theorem scanAt_lastId_or_idle (c : Half) (s : State) : (scanAt c s).lastId = s.lastId ∨ (scanAt c s).seq = .idle := by
  rcases scanAt_cases c s with ⟨_, h⟩ | ⟨_, h⟩ <;> rw [h]
  · exact .inr rfl
  · exact .inl rfl

theorem afterRemoval_lastId_or_idle (a : Byte) (s : State) :
    (afterRemoval a s).lastId = s.lastId ∨ (afterRemoval a s).seq = .idle := by
  rcases afterRemoval_cases a s with h | ⟨_, h⟩ <;> rw [h]
  · exact .inr rfl
  · exact scanAt_lastId_or_idle _ s

theorem afterProbe_lastId_or_idle (a : Byte) (s : State) :
    (afterProbe a s).lastId = s.lastId ∨ (afterProbe a s).seq = .idle := by
  rcases afterProbe_cases a s with h | h <;> rw [h]
  · exact .inr rfl
  · exact scanAt_lastId_or_idle _ s

/-- Everything a command can do to LAST_ID. -/
inductive LastIdCommand (i : Instr) (s t : State) : Prop where
  | kept (h : t.lastId = s.lastId)
  /-- The init scan sets it. -/
  | scanned (hi : i = .initEnd) (hs : s.seq = .initScan)
  /-- The safe point sets it. -/
  | committed (hi : i = .saveCommit) (hs : s.seq = .savePending)
  /-- A delete's removal ends the delete. -/
  | removed (a : Byte) (hi : i = .deleteRemoved a) (hs : s.seq = .deleteRemove) (ht : t.seq = .idle)
  /-- A delete's scan ends the delete. -/
  | probed (a : Byte) (hi : i = .probeResult a) (hs : s.seq = .deleteProbe) (ht : t.seq = .idle)

theorem exec_lastId (h : exec i s = .next t) : LastIdCommand i s t := by
  rcases exec_cases h with ⟨_, _, rfl⟩ | ⟨hc, rfl⟩
  · exact .kept rfl
  · cases hq : requiredSeq i with
    | none => exact .kept (by rw [State.setResult_lastId, commandWrites_eq_withCodecOf hq]; rfl)
    | some q =>
      have hseq : s.seq = q := seq_of_checks_pass hq hc
      cases i with
      | nop | crcInit | crcUpdate | txSend | rxDecode | mboxAck => cases hq
      | initEnd => cases hq; exact .scanned rfl hseq
      | saveCommit => cases hq; exact .committed rfl hseq
      | deleteRemoved a =>
        cases hq
        rcases afterRemoval_lastId_or_idle a s with hkept | hidle
        · exact .kept hkept
        · exact .removed a rfl hseq hidle
      | probeResult a =>
        cases hq
        rcases afterProbe_lastId_or_idle a s with hkept | hidle
        · exact .kept hkept
        · exact .probed a rfl hseq hidle
      | initBegin | initFeed | saveBegin | saveAbort | deleteBegin | latest => exact .kept rfl

/-! ### What becomes of SEQ (R137) -/

/-- A command the table of R137 does not list for a state leaves SEQ unchanged. -/
theorem seqAfter_of_not_required (h : requiredSeq i ≠ some s.seq) : seqAfter i s = s.seq := by
  unfold seqAfter
  split
  case h_9 => rfl
  all_goals next hseq => exact absurd (congrArg some hseq.symm) h

theorem exec_seq_of_not_required (hq : requiredSeq i ≠ some s.seq) (h : exec i s = .next t) : t.seq = s.seq := by
  rcases exec_cases h with ⟨_, _, rfl⟩ | ⟨hc, rfl⟩
  · rfl
  · cases hr : requiredSeq i with
    | none => rw [State.setResult_seq, commandWrites_eq_withCodecOf hr]; rfl
    | some q => exact absurd (seq_of_checks_pass hr hc ▸ hr) hq

theorem eq_of_exec (h : exec i s = .next t) (h' : exec i s = .next u) : t = u := Host.Outcome.next.inj (h.symm.trans h')

theorem exec_saveBegin_seq (hseq : s.seq = .idle) (h : exec .saveBegin s = .next t) :
    t.seq = seqAfter .saveBegin s := by
  obtain ⟨_, hnot, hfull, hreserve⟩ := saveBeginReservesCandidate s
  cases hi : s.inited with
  | false => rw [eq_of_exec h (hnot hseq hi)]; simp [seqAfter, hseq, hi]
  | true =>
    by_cases hlast : s.lastId.toNat < 0xFFFF
    · rw [eq_of_exec h (hreserve hseq hi hlast)]; simp [seqAfter, hseq, hi, hlast]
    · rw [eq_of_exec h (hfull hseq hi (by omega))]; simp [seqAfter, hseq, hlast]

theorem exec_saveAbort_seq (hseq : s.seq = .savePending) (h : exec (.saveAbort a) s = .next t) :
    t.seq = seqAfter (.saveAbort a) s := by
  by_cases ha : a.toNat ≤ 1
  · rw [eq_of_exec h (exec_saveAbort hseq ha)]; simp [seqAfter, hseq, ha]
  · rw [eq_of_exec h (exec_of_bad_report rfl hseq (by omega))]; simp [seqAfter, hseq, ha]

theorem exec_deleteBegin_seq (hseq : s.seq = .idle) (h : exec (.deleteBegin b) s = .next t) :
    t.seq = seqAfter (.deleteBegin b) s := by
  obtain ⟨_, hnot, hzero, hrecord⟩ := deleteBeginRecordsIdentifier b s
  cases hi : s.inited with
  | false => rw [eq_of_exec h (hnot hseq hi)]; simp [seqAfter, hseq, hi]
  | true =>
    by_cases hb : 1 ≤ b.toNat
    · rw [eq_of_exec h (hrecord hseq hi hb)]; simp [seqAfter, hseq, hi, hb]
    · rw [eq_of_exec h (hzero hseq hi (by omega))]; simp [seqAfter, hseq, hb]

/-- A delete of LAST_ID names an identifier (R158), so LAST_ID - 1 does not wrap. -/
theorem exec_deleteRemoved_seq (hs : SequencerInv s) (hseq : s.seq = .deleteRemove)
    (h : exec (.deleteRemoved a) s = .next t) : t.seq = seqAfter (.deleteRemoved a) s := by
  obtain ⟨_, hbad, hfailed, hother, hlast, hscan⟩ := deleteRemovedEndsOrStartsScan a s
  rcases (by omega : a.toNat = 0 ∨ a.toNat = 1 ∨ 1 < a.toNat) with ha | ha | ha
  · rw [eq_of_exec h (hfailed hseq ha)]; simp [seqAfter, hseq, ha]
  · by_cases hd : s.delId = s.lastId
    · have hpos : s.lastId ≠ 0 := hd ▸ hs.removing hseq
      rcases (by bv_omega : s.lastId.toNat = 1 ∨ 2 ≤ s.lastId.toNat) with hl | hl
      · rw [eq_of_exec h (hlast hseq ha hd hl)]; simp [seqAfter, hseq, ha, hl]
      · rw [eq_of_exec h (hscan hseq ha hd hl)]; simp [seqAfter, hseq, ha, hd, show ¬ s.lastId.toNat - 1 = 0 by omega]
    · rw [eq_of_exec h (hother hseq ha hd)]; simp [seqAfter, hseq, ha, hd]
  · rw [eq_of_exec h (hbad hseq ha)]
    simp [seqAfter, hseq, show ¬ a.toNat = 0 by omega, show ¬ a.toNat = 1 by omega]

/-- A probe names an identifier (10_state.md R34), so PROBE_ID - 1 does not wrap. -/
theorem exec_probeResult_seq (hs : SequencerInv s) (hseq : s.seq = .deleteProbe)
    (h : exec (.probeResult a) s = .next t) : t.seq = seqAfter (.probeResult a) s := by
  obtain ⟨_, hbad, hfound, hlast, hdown⟩ := probeResultMovesCursor a s
  obtain ⟨_, hpos, _⟩ := hs.probing hseq
  rcases (by omega : a.toNat = 0 ∨ a.toNat = 1 ∨ 1 < a.toNat) with ha | ha | ha
  · rcases (by bv_omega : s.probeId.toNat = 1 ∨ 2 ≤ s.probeId.toNat) with hp | hp
    · rw [eq_of_exec h (hlast hseq ha hp)]; simp [seqAfter, hseq, ha, hp]
    · rw [eq_of_exec h (hdown hseq ha hp)]; simp [seqAfter, hseq, ha, show ¬ s.probeId.toNat - 1 = 0 by omega]
  · rw [eq_of_exec h (hfound hseq ha)]; simp [seqAfter, hseq, ha]
  · rw [eq_of_exec h (hbad hseq ha)]
    simp [seqAfter, hseq, show ¬ a.toNat = 0 by omega, show ¬ a.toNat = 1 by omega]

/-- A command whose writes leave SEQ alone leaves it alone when a check fails too. -/
theorem exec_seq_of_commandWrites (hw : (commandWrites i s).seq = s.seq) (h : exec i s = .next t) : t.seq = s.seq := by
  rcases exec_cases h with ⟨_, _, rfl⟩ | ⟨_, rfl⟩
  · rfl
  · exact hw

theorem exec_seq_of_required (hs : SequencerInv s) (hq : requiredSeq i = some q) (hseq : s.seq = q)
    (h : exec i s = .next t) : t.seq = seqAfter i s := by
  cases i with
  | nop | crcInit | crcUpdate | txSend | rxDecode | mboxAck => cases hq
  | initBegin => cases hq; rw [eq_of_exec h (exec_initBegin hseq)]; simp [seqAfter, hseq]
  | initFeed b => cases hq; rw [exec_seq_of_commandWrites rfl h]; simp [seqAfter, hseq]
  | initEnd => cases hq; rw [eq_of_exec h (exec_initEnd hseq)]; simp [seqAfter, hseq]
  | saveBegin => cases hq; exact exec_saveBegin_seq hseq h
  | saveCommit => cases hq; rw [eq_of_exec h (exec_saveCommit hseq)]; simp [seqAfter, hseq]
  | saveAbort a => cases hq; exact exec_saveAbort_seq hseq h
  | deleteBegin b => cases hq; exact exec_deleteBegin_seq hseq h
  | deleteRemoved a => cases hq; exact exec_deleteRemoved_seq hs hseq h
  | probeResult a => cases hq; exact exec_probeResult_seq hs hseq h
  | latest => cases hq; rw [exec_seq_of_commandWrites rfl h]; simp [seqAfter, hseq]

/-- SEQ after a command is what the table of R137 says. -/
theorem exec_seq (hs : SequencerInv s) (h : exec i s = .next t) : t.seq = seqAfter i s := by
  by_cases hq : requiredSeq i = some s.seq
  · exact exec_seq_of_required hs hq rfl h
  · rw [exec_seq_of_not_required hq h, seqAfter_of_not_required hq]

/-! ### An access that executes no command leaves the sequencer alone (40_commands_common.md R88) -/

theorem writeReg_eq_withSequencerOf (r : Reg) (w : Word) (s : State) :
    writeReg r w s = withSequencerOf s (writeReg r w s) := by
  cases r <;> rfl

theorem AccessEffect.eq_withSequencerOf {x : HostAccess} (h : AccessEffect x s t) : t = withSequencerOf s t := by
  cases h with
  | illegal h | read _ h | ignored h => rw [h]; rfl
  | register r w _ _ h => rw [h]; exact writeReg_eq_withSequencerOf r w _
  | buffer b i w hb h => rw [h, writeBufferWord_eq hb]; rfl

/-! ### The backward scan against storage (R157, R169) -/

/-- `m` is the highest identifier below `bound` that storage holds, 0 if it holds none there. -/
structure HighestStoredBelow (stored : Half → Bool) (bound : Nat) (m : Half) : Prop where
  below : m.toNat < bound
  held : m ≠ 0 → stored m = true
  absent : ∀ j : Half, m.toNat < j.toNat → j.toNat < bound → stored j = false

section
variable {stored : Half → Bool} {n bound : Nat} {m : Half}

theorem highestStoredBelow_one : HighestStoredBelow stored 1 0 :=
  ⟨by decide, fun h => absurd rfl h, fun _ hlow hhigh => absurd hlow (Nat.not_lt.mpr (Nat.le_of_lt_succ hhigh))⟩

theorem highestStoredBelow_of_stored (h : stored m = true) : HighestStoredBelow stored (m.toNat + 1) m :=
  ⟨Nat.lt_succ_self _, fun _ => h, fun _ hlow hhigh => absurd hhigh (Nat.not_lt.mpr hlow)⟩

/-- An identifier that storage does not hold may be passed over. -/
theorem HighestStoredBelow.succ (h : HighestStoredBelow stored bound m) (hc : c.toNat = bound)
    (hstored : stored c = false) : HighestStoredBelow stored (bound + 1) m where
  below := Nat.lt_succ_of_lt h.below
  held := h.held
  absent j hlow hhigh := by
    rcases Nat.lt_succ_iff_lt_or_eq.mp hhigh with hlt | heq
    · exact h.absent j hlow hlt
    · rwa [BitVec.eq_of_toNat_eq (heq.trans hc.symm)]

/-- The state a scan ends in: idle, with OK, and LAST_ID the highest identifier left below the bound. -/
structure ScanDone (stored : Half → Bool) (bound : Nat) (t : State) : Prop where
  seq : t.seq = .idle
  result : t.result = .ok
  lastId : HighestStoredBelow stored bound t.lastId

theorem answerProbes_of_idle (stored : Half → Bool) (n : Nat) (h : s.seq = .idle) :
    answerProbes stored n s = .next s := by
  cases n with
  | zero => rfl
  | succ n => exact if_neg (by simp [h])

theorem answerProbes_succ (hseq : s.seq = .deleteProbe)
    (h : exec (.probeResult (if stored s.probeId then 1 else 0)) s = .next u) :
    answerProbes stored (n + 1) s = answerProbes stored n u := by
  rw [answerProbes, if_pos hseq, h]

/-- The probed identifier survives: the scan ends there. -/
theorem answerProbes_stored (n : Nat) (hseq : s.seq = .deleteProbe) (h : stored s.probeId = true) :
    answerProbes stored (n + 1) s = .next { s with lastId := s.probeId, seq := .idle, result := .ok } := by
  obtain ⟨_, _, hfound, _⟩ := probeResultMovesCursor 1 s
  rw [answerProbes_succ hseq (by rw [h, if_pos rfl]; exact hfound hseq rfl), answerProbes_of_idle stored n rfl]

/-- No identifier is left below the absent one: the scan ends at 0. -/
theorem answerProbes_absent_one (n : Nat) (hseq : s.seq = .deleteProbe) (h : stored s.probeId = false)
    (hone : s.probeId.toNat = 1) :
    answerProbes stored (n + 1) s = .next { s with lastId := 0, seq := .idle, result := .ok } := by
  obtain ⟨_, _, _, hlast, _⟩ := probeResultMovesCursor 0 s
  rw [answerProbes_succ hseq (by rw [h, if_neg (by decide)]; exact hlast hseq rfl hone),
    answerProbes_of_idle stored n rfl]

/-- The scan goes on at the identifier below the absent one. -/
theorem answerProbes_absent (n : Nat) (hseq : s.seq = .deleteProbe) (h : stored s.probeId = false)
    (htwo : 2 ≤ s.probeId.toNat) :
    answerProbes stored (n + 1) s =
      answerProbes stored n { s with probeId := BitVec.ofNat 16 (s.probeId.toNat - 1), result := .ok } := by
  obtain ⟨_, _, _, _, hdown⟩ := probeResultMovesCursor 0 s
  exact answerProbes_succ hseq (by rw [h, if_neg (by decide)]; exact hdown hseq rfl htwo)

/-- A scan at the cursor `k` ends within `k` probes: each answer ends it or moves the cursor down by one. -/
theorem answerProbes_done (stored : Half → Bool) (n k : Nat) (s : State) (hseq : s.seq = .deleteProbe)
    (hk : s.probeId.toNat = k) (hpos : 1 ≤ k) (hn : k ≤ n) :
    ∃ t, answerProbes stored n s = .next t ∧ ScanDone stored (k + 1) t := by
  induction n generalizing k s with
  | zero => omega
  | succ n ih =>
    cases hstored : stored s.probeId with
    | true =>
      exact ⟨_, answerProbes_stored n hseq hstored, rfl, rfl, hk ▸ highestStoredBelow_of_stored hstored⟩
    | false =>
      suffices h : ∃ t, answerProbes stored (n + 1) s = .next t ∧ ScanDone stored k t by
        obtain ⟨t, hrun, hidle, hok, hbelow⟩ := h
        exact ⟨t, hrun, hidle, hok, hbelow.succ hk hstored⟩
      rcases Nat.eq_or_lt_of_le hpos with rfl | htwo
      · exact ⟨_, answerProbes_absent_one n hseq hstored hk, rfl, rfl, highestStoredBelow_one⟩
      · have hcursor : (BitVec.ofNat 16 (s.probeId.toNat - 1)).toNat = k - 1 := by bv_omega
        obtain ⟨t, hrun, hdone⟩ := ih (k - 1)
          { s with probeId := BitVec.ofNat 16 (s.probeId.toNat - 1), result := .ok } hseq hcursor (by omega) (by omega)
        exact ⟨t, (answerProbes_absent n hseq hstored (hk ▸ htwo)).trans hrun, Nat.sub_add_cancel hpos ▸ hdone⟩

end

/-! ### The statements about all commands and all steps -/

/-- Settles O28: in SAVE_PENDING only the commit of what commands do to LAST_ID is left. -/
theorem safePointLaw : Obligations.SafePointLaw := by
  intro i s t h
  refine ⟨fun hseq => ?_, ?_, fun a => ?_⟩
  · split
    · next hi =>
      subst hi
      rw [eq_of_exec h (exec_saveCommit hseq)]
    · next hi =>
      cases exec_lastId h with
      | kept h => exact h
      | committed hc => exact absurd hc hi
      | scanned _ hs | removed _ _ hs | probed _ _ hs => rw [hseq] at hs; cases hs
  all_goals
    rintro rfl
    cases exec_lastId h with
    | kept h => exact h
    | scanned hi | committed hi | removed _ hi | probed _ hi => cases hi

/-- Settles O35, by the kinds of a step. -/
theorem seqFollowsTransitionTable : Obligations.SeqFollowsTransitionTable := by
  intro s t hs h
  cases step_kinds h with
  | wait hi h => rw [h]; simp [nextCommand, nextIsReset, hi]
  | command e rest i hi hc hr h =>
    rw [hr, if_neg (by decide), hc]
    exact exec_seq (s := { s with inbox := rest, response := .writeDone })
      ⟨hs.uninited, hs.saving, hs.removing, hs.probing⟩ h
  | access x rest _ hc hr h =>
    rw [hr, if_neg (by decide), hc, h.eq_withSequencerOf]
    rfl
  | reset d rest _ _ hr h | power rest _ _ hr h => rw [hr, if_pos rfl, h]; rfl

/-- A step that executes SAVE_COMMIT in a pending save makes LAST_ID the candidate. -/
theorem step_saveCommit (h : step s = .next t) (hc : nextCommand s = some .saveCommit) (hseq : s.seq = .savePending) :
    t.lastId = s.candidate := by
  cases step_kinds h with
  | wait hi => simp [nextCommand, hi] at hc
  | command e rest i _ hi _ h =>
    obtain rfl : i = .saveCommit := Option.some.inj (hi.symm.trans hc)
    rw [eq_of_exec h (exec_saveCommit hseq)]
  | access _ _ _ hn | reset _ _ _ hn | power _ _ hn => rw [hn] at hc; cases hc

/-- Settles O36: by the kinds of a step and what a command does to LAST_ID; a pending candidate is LAST_ID + 1 without
wrap. -/
theorem lastIdChangesOnlyAtItsCommands : Obligations.LastIdChangesOnlyAtItsCommands := by
  intro s t h
  refine ⟨fun hne => ?_, fun hs hc hseq => ?_⟩
  · cases step_kinds h with
    | wait _ h => exact absurd (h ▸ rfl) hne
    | command e rest i _ hc _ h =>
      rw [hc]
      cases exec_lastId h with
      | kept h => exact absurd h hne
      | scanned hi => exact .inl (hi ▸ rfl)
      | committed hi => exact .inr (.inl (hi ▸ rfl))
      | removed a hi _ ht => exact .inr (.inr (.inl ⟨a, hi ▸ rfl, ht⟩))
      | probed a hi _ ht => exact .inr (.inr (.inr (.inl ⟨a, hi ▸ rfl, ht⟩)))
    | access x rest _ _ _ h => exact absurd (congrArg State.lastId h.eq_withSequencerOf) hne
    | reset _ _ _ _ hr | power _ _ _ hr => exact .inr (.inr (.inr (.inr hr)))
  · obtain ⟨hlast, hcandidate⟩ := hs.saving hseq
    rw [step_saveCommit h hc hseq, hcandidate]
    bv_omega

/-- Settles O37: the removal ends the delete at 0 or starts the scan below LAST_ID, and the scan ends in time. -/
theorem backwardScanFindsHighestSurvivor : Obligations.BackwardScanFindsHighestSurvivor := by
  intro stored s hseq hd hne
  obtain ⟨_, _, _, _, hone, hscan⟩ := deleteRemovedEndsOrStartsScan 1 s
  suffices hdone : ∃ u t, exec (.deleteRemoved 1) s = .next u ∧
      answerProbes stored (s.lastId.toNat - 1) u = .next t ∧ ScanDone stored s.lastId.toNat t by
    obtain ⟨u, t, hremoved, hrun, hidle, hok, hbelow, hheld, habsent⟩ := hdone
    exact ⟨u, t, hremoved, hrun, hidle, hok, hbelow, hheld, habsent⟩
  rcases (by bv_omega : s.lastId.toNat = 1 ∨ 2 ≤ s.lastId.toNat) with hlast | hlast
  · exact ⟨_, _, hone hseq rfl hd hlast, answerProbes_of_idle stored _ rfl, rfl, rfl, hlast ▸ highestStoredBelow_one⟩
  · have hcursor : (BitVec.ofNat 16 (s.lastId.toNat - 1)).toNat = s.lastId.toNat - 1 := by bv_omega
    obtain ⟨t, hrun, hdone⟩ := answerProbes_done stored (s.lastId.toNat - 1) (s.lastId.toNat - 1)
      { s with probeId := BitVec.ofNat 16 (s.lastId.toNat - 1), seq := .deleteProbe, result := .ok } rfl hcursor
      (by omega) le_rfl
    rw [Nat.sub_add_cancel (by omega)] at hdone
    exact ⟨_, t, hscan hseq rfl hd hlast, hrun, hdone⟩

end Sys2Proof.Machine

/-! PROOFS. The interrupt output (60_exceptions.md R181). It is IRQ_EN and MBOX_FULL (10_state.md R41), so an edge of it
is an edge of one of the two: MBOX_FULL's edges are R131's, and IRQ_EN has no source but a host write to CTRL and a
reset. -/

namespace Sys2Proof.Machine

variable {s t : State}

/-! ### What leaves CTRL.IRQ_EN alone -/

/-- No command writes CTRL (10_state.md R17). -/
theorem commandWrites_irqEn (i : Instr) (s : State) : (commandWrites i s).irqEn = s.irqEn := by
  cases hq : requiredSeq i with
  | some q => rw [commandWrites_eq_withSequencerOf hq]; rfl
  | none =>
    cases i with
    | nop | crcInit | crcUpdate | txSend | mboxAck => rfl
    | rxDecode b => rw [commandWrites, decodeFrame_eq]
    | _ => cases hq

theorem exec_irqEn {i : Instr} (h : exec i s = .next t) : t.irqEn = s.irqEn := by
  rcases exec_cases h with ⟨c, _, rfl⟩ | ⟨_, rfl⟩
  · rfl
  · rw [State.setResult_irqEn, commandWrites_irqEn]

/-- No register but CTRL holds IRQ_EN. -/
theorem writeReg_irqEn {r : Reg} (hr : r ≠ .ctrl) (w : Word) (s : State) : (writeReg r w s).irqEn = s.irqEn := by
  cases r with
  | ctrl => exact absurd rfl hr
  | _ => rfl

/-- An access that executes no command leaves IRQ_EN alone, unless it is a write to CTRL, which sets it to bit 2. -/
theorem AccessEffect.irqEn_cases {a : HostAccess} (h : AccessEffect a s t) :
    t.irqEn = s.irqEn ∨ ∃ w, writeOf (.access a) = some (0x000, w) ∧ t.irqEn = w.getLsbD 2 := by
  cases h with
  | illegal h | read _ h | ignored h => exact .inl (h ▸ rfl)
  | register r w _ hw h =>
    by_cases hr : r = .ctrl
    · subst hr
      exact .inr ⟨w, hw, h ▸ rfl⟩
    · exact .inl (by rw [h, writeReg_irqEn hr])
  | buffer b i w hb h => exact .inl (by rw [h, writeBufferWord_eq hb])

/-! ### Every step -/

/-- Everything a step can do to CTRL.IRQ_EN. -/
inductive IrqEnStep (s t : State) : Prop where
  /-- It leaves IRQ_EN alone. -/
  | kept (h : t.irqEn = s.irqEn)
  /-- It writes CTRL, which leaves MBOX_FULL alone. -/
  | written (w : Word) (hw : nextWrite s = some (0x000, w)) (ht : t.irqEn = w.getLsbD 2)
      (hfull : t.mboxFull = s.mboxFull)
  /-- It is a reset. -/
  | reset (hr : nextIsReset s = true) (ht : t.irqEn = false)

theorem step_irqEn (h : step s = .next t) : IrqEnStep s t := by
  cases step_kinds h with
  | wait _ h => exact .kept (h ▸ rfl)
  | command _ _ _ _ _ _ h => exact .kept ((exec_irqEn h).trans rfl)
  | access a rest hi _ _ h =>
    rcases h.irqEn_cases with hkept | ⟨w, hw, ht⟩
    · exact .kept hkept
    · exact .written w (by simp [nextWrite, hi, hw]) ht (mailboxOf_eq_iff.mp h.mailboxOf_eq).1
  | reset _ _ _ _ hr h | power _ _ _ hr h => exact .reset hr (h ▸ rfl)

theorem irqOut_eq_true_iff (s : State) : irqOut s = true ↔ s.irqEn = true ∧ s.mboxFull = true := by
  simp [irqOut]

theorem irqOut_eq_false_iff (s : State) : irqOut s = false ↔ s.irqEn = false ∨ s.mboxFull = false := by
  simp [irqOut, or_iff_not_imp_left]

/-- IRQ rises with MBOX_FULL, while IRQ_EN stays 1, or with IRQ_EN, while MBOX_FULL stays 1. -/
theorem irq_rises (h : step s = .next t) (hs : irqOut s = false) (ht : irqOut t = true) :
    (∃ b, nextCommand s = some (.rxDecode b) ∧ t.rxResult = .delivered ∧ s.irqEn = true) ∨
    (s.mboxFull = true ∧ s.irqEn = false ∧ t.irqEn = true ∧
      ∃ w, nextWrite s = some (0x000, w) ∧ w.getLsbD 2 = true) := by
  obtain ⟨hen, hfull⟩ := (irqOut_eq_true_iff t).mp ht
  obtain ⟨hrise, _⟩ := mailboxIsSingleSlot s t h
  cases step_irqEn h with
  | kept he =>
    have hsen : s.irqEn = true := he ▸ hen
    have hempty : s.mboxFull = false := ((irqOut_eq_false_iff s).mp hs).resolve_left (by simp [hsen])
    obtain ⟨b, hc, hr⟩ := hrise hempty hfull
    exact .inl ⟨b, hc, hr, hsen⟩
  | written w hw he hkept =>
    have hsfull : s.mboxFull = true := hkept ▸ hfull
    exact .inr ⟨hsfull, ((irqOut_eq_false_iff s).mp hs).resolve_right (by simp [hsfull]), hen, w, hw, he ▸ hen⟩
  | reset _ he => simp [he] at hen

/-- IRQ falls with MBOX_FULL, or with IRQ_EN while MBOX_FULL stays 1. -/
theorem irq_falls (h : step s = .next t) (hs : irqOut s = true) (ht : irqOut t = false) :
    nextCommand s = some .mboxAck ∨ nextIsReset s = true ∨
    (t.mboxFull = true ∧ t.irqEn = false ∧ ∃ w, nextWrite s = some (0x000, w) ∧ w.getLsbD 2 = false) := by
  obtain ⟨hen, hfull⟩ := (irqOut_eq_true_iff s).mp hs
  obtain ⟨_, hfall, _⟩ := mailboxIsSingleSlot s t h
  cases step_irqEn h with
  | kept he =>
    have hempty : t.mboxFull = false := ((irqOut_eq_false_iff t).mp ht).resolve_left (by simp [he, hen])
    exact (hfall hfull hempty).imp_right .inl
  | written w hw he hkept =>
    have htfull : t.mboxFull = true := hkept.trans hfull
    have hten : t.irqEn = false := ((irqOut_eq_false_iff t).mp ht).resolve_right (by simp [htfull])
    exact .inr (.inr ⟨htfull, hten, w, hw, he ▸ hten⟩)
  | reset hr _ => exact .inr (.inl hr)

/-! ### The statement -/

/-- Settles O21: the edges of IRQ, by what a step does to IRQ_EN and, from O20, to MBOX_FULL. -/
theorem irqHasOneSource : Obligations.IrqHasOneSource :=
  fun _ _ h => ⟨irq_rises h, irq_falls h⟩

end Sys2Proof.Machine

/-! PROOFS. Reset, power and the hazard of a sequence never closed (70_reset_and_hazards.md R200, R204, R217). What a
register reads after a reset is what it reads in the table's own state, `State.reset`; and a pending sequence stays as
it is because each event that neither resets nor closes it leaves SEQ and the later events alone. -/

namespace Sys2Proof.Machine

variable {s t : State} {rest : List HostEvent}

/-! ### The steps of a reset and of a power cycle -/

/-- A reset during an access answers what a reset alone does: the access is not performed (60_exceptions.md R179). -/
theorem step_reset {d : Option HostAccess} (h : s.inbox = .reset d :: rest) :
    step s = .next (resetBlock { s with inbox := rest }) :=
  step_event h

theorem step_powerCycle (h : s.inbox = .powerCycle :: rest) : step s = .next (powerUp { s with inbox := rest }) :=
  step_event h

/-! ### What a reset leaves to be read -/

/-- PARAM alone shows something a reset keeps, the parameter MAXLEN. -/
theorem readReg_resetBlock {r : Reg} (hr : r ≠ .param) (s : State) :
    readReg r (resetBlock s) = readReg r State.reset := by
  cases r with
  | param => exact absurd rfl hr
  | _ => rfl

/-- STATUS after reset: OK, IDLE, every flag 0, and RX_RESULT = NONE in bits 19:16. -/
theorem readReg_status_reset : readReg .status State.reset = 0x000F0000 := by decide

theorem readReg_reset_eq_zero {r : Reg} (hr : r ∉ [Reg.status, .crc, .param]) : readReg r State.reset = 0 := by
  cases r with
  | status | crc | param => simp at hr
  | _ => decide

theorem readReg_resetBlock_eq_zero {r : Reg} (hr : r ∉ [Reg.status, .crc, .param]) (s : State) :
    readReg r (resetBlock s) = 0 :=
  (readReg_resetBlock (by rintro rfl; simp at hr) s).trans (readReg_reset_eq_zero hr)

/-- No byte is stored after a reset, so every byte that exists reads the new draw (R201). -/
theorem bufByte_resetBlock (b : BufferId) (i : Nat) (s : State) :
    bufByte b i (resetBlock s) = if i < s.capacity b then Config.bufferDraw (s.resetCount + 1) b i else 0 := by
  cases b <;> rfl

/-! ### Events that leave a sequence pending -/

/-- An event that is no reset and runs no command a sequencer in state `q` expects, INIT_FEED apart. -/
def LeavesPending (q : SeqState) (e : HostEvent) : Prop :=
  eventIsReset e = false ∧ ∀ i, eventCommand e = some i → requiredSeq i = some q → ∃ b, i = .initFeed b

/-- The one command that runs in a state SEQ expects and yet never closes the sequence is INIT_FEED. -/
theorem exec_seq_of_not_closing {i : Instr} (hi : requiredSeq i = some s.seq → ∃ b, i = .initFeed b)
    (h : exec i s = .next t) : t.seq = s.seq := by
  by_cases hq : requiredSeq i = some s.seq
  · obtain ⟨b, rfl⟩ := hi hq
    exact exec_seq_of_commandWrites rfl h
  · exact exec_seq_of_not_required hq h

theorem step_seq_of_leavesPending (hs : ∀ e ∈ s.inbox, LeavesPending s.seq e) (h : step s = .next t) :
    t.seq = s.seq := by
  cases step_kinds h with
  | wait _ h => rw [h]
  | command e rest i hi hc _ h =>
    obtain ⟨_, hclosing⟩ := hs e (by simp [hi])
    have hi' : eventCommand e = some i := by simpa [nextCommand, hi] using hc
    exact exec_seq_of_not_closing (s := { s with inbox := rest, response := .writeDone }) (hclosing i hi') h
  | access _ _ _ _ _ h => rw [h.eq_withSequencerOf]; rfl
  | reset d _ hi =>
    obtain ⟨hreset, _⟩ := hs (.reset d) (by simp [hi])
    cases hreset
  | power _ hi =>
    obtain ⟨hreset, _⟩ := hs .powerCycle (by simp [hi])
    cases hreset

/-- By induction on the number of steps: the events still to come are among those the run began with. -/
theorem run_seq_of_leavesPending {n : Nat} (hs : ∀ e ∈ s.inbox, LeavesPending s.seq e)
    (h : Host.Core.run core n s = .next t) : t.seq = s.seq := by
  induction n generalizing s with
  | zero => exact congrArg State.seq (Host.Outcome.next.inj h).symm
  | succ n ih =>
    obtain ⟨u, hu, hrun⟩ := step_of_run h
    have hseq : u.seq = s.seq := step_seq_of_leavesPending hs hu
    have hlater : ∀ e ∈ u.inbox, LeavesPending u.seq e := fun e he =>
      hseq ▸ hs e (List.mem_of_mem_tail (step_inbox hu ▸ he))
    exact (ih hlater hrun).trans hseq

/-! ### The statements -/

/-- Settles O38: no event of the run closes the sequence, and a command that expects another state fails its first
check. -/
theorem pendingSequenceStaysPending : Obligations.PendingSequenceStaysPending :=
  fun _ _ => ⟨fun _ _ => run_seq_of_leavesPending, fun _ _ hq hne => exec_of_wrong_seq hq hne.symm⟩

/-- Settles O56: the registers read what they read in `State.reset`, and the buffers the new draw. -/
theorem resetEstablishesResetState : Obligations.ResetEstablishesResetState := by
  intro s d rest h
  have hzero (r : Reg) (hr : r ∉ [Reg.status, .crc, .param]) : readReg r (resetBlock { s with inbox := rest }) = 0 :=
    readReg_resetBlock_eq_zero hr _
  have hstatus := (readReg_resetBlock (r := .status) nofun { s with inbox := rest }).trans readReg_status_reset
  refine ⟨_, step_reset h, rfl, hzero .ctrl (by decide), hzero .rxCfg (by decide), hstatus, rfl, rfl,
    fun r hr => hzero r ?_, ?_⟩
  · revert r
    decide
  · intro b i size
    have hsize : size = s.capacity b := by cases b <;> rfl
    rw [bufByte_resetBlock, hsize]
    rfl

/-- Settles O57: `powerUp` is `resetBlock` with TX_OUT empty. -/
theorem powerCycleIsResetWithEmptyTxOut : Obligations.PowerCycleIsResetWithEmptyTxOut :=
  fun _ _ h => ⟨_, step_reset rfl, step_powerCycle h⟩

end Sys2Proof.Machine
